-- ==== Sys2Proof/Word.lean ====
section
/-! DEFINITION. The word types of the block: bytes, the u16 of 00_scope.md R7, the 32-bit register word of 10_state.md R29,
and the copy mode of 00_scope.md R11. -/

namespace Sys2Proof

/-- One byte, the smallest addressable unit of the memory port (20_memory.md R50). -/
abbrev Byte := BitVec 8

/-- The u16 of 00_scope.md R7: cursors, counts, sizes and extended-index constants. Its `+` and `-` are `+16` and `-16`. -/
abbrev U16 := BitVec 16

/-- A 32-bit port register, command word or address (10_state.md R29, 30_encoding.md R80). -/
abbrev Word := BitVec 32

/-- The copy mode of a data-moving command (00_scope.md R11, 20_memory.md section 2): the CM bit of the command word. -/
inductive CopyMode where
  /-- CM = 0: increasing-address copy. -/
  | inc
  /-- CM = 1: constant-address copy, for memory-mapped hardware FIFOs. -/
  | const
  deriving DecidableEq, Repr

end Sys2Proof
end

