-- ==== Sys2Proof/Config.lean ====
section
/-! DEFINITION. What an implementation fixes (00_scope.md R5) and the values the spec leaves open: the parameters are plain
data that State carries unchanged, so a statement about every state is about every parameter; the free values are opaque. -/

namespace Sys2Proof

/-- What the platform puts at an address of the memory port's space (20_memory.md R54; 93_implementation_defined.md U6, U15). -/
inductive RegionKind where
  /-- Ordinary memory, read and written. -/
  | ram
  /-- Memory that admits reads only: a write is not admitted (R54). No other master writes it either: DESIGN CHOICE (log 21). -/
  | readOnly
  /-- Memory that admits writes only: a read is not admitted (R54). -/
  | writeOnly
  /-- Nothing answers: no access is admitted (R54). -/
  | absent
  /-- A memory-mapped hardware FIFO register: what a read returns and what a write does belong to the platform (U15). -/
  | device
  deriving DecidableEq, Repr

/-- One region of the platform's memory map. DESIGN CHOICE (log 2): the spec leaves admission to the platform. -/
structure Region where
  base : Nat
  size : Nat
  kind : RegionKind
  deriving DecidableEq, Repr

/-- The implementation parameters of 00_scope.md R5. NPORTS is the length of `dmaCap`. -/
structure Params where
  /-- ADDR_W, the memory-port address width, 1 to 32 (decision D6). -/
  addrW : Nat
  /-- PORT_BASE, the address of port 0's window (decision D36). -/
  portBase : Nat
  /-- PORT_DMA_CAP[p] for each port p (60_exceptions.md R306): one entry a port. -/
  dmaCap : List Bool
  /-- The platform's memory map: the first region that holds an address decides it; an address in none is `ram`. -/
  map : List Region
  deriving DecidableEq, Repr

namespace Params

/-- NPORTS (00_scope.md R5). -/
abbrev nports (P : Params) : Nat := P.dmaCap.length

/-- 2^ADDR_W, the size of the memory port's space (20_memory.md R50). -/
abbrev space (P : Params) : Nat := 2 ^ P.addrW

/-- The ranges 00_scope.md R5 gives its parameters, with two readings of the model's own (log 2, log 15): PORT_BASE is a
multiple of 4, and device regions are whole 4-byte registers. -/
abbrev wf (P : Params) : Prop :=
  1 ≤ P.addrW ∧ P.addrW ≤ 32 ∧ 1 ≤ P.nports ∧ P.portBase % 4 = 0 ∧
    ∀ r ∈ P.map, r.kind = .device → r.base % 4 = 0 ∧ r.size % 4 = 0

/-- The parameters State.reset takes. DESIGN CHOICE (log 1): those of the spec's test vectors (95_test_vectors.md,
Conventions): two ports, port 1 with the DMA capability, ADDR_W = 32; all of the space is ordinary memory. -/
def default : Params :=
  { addrW := 32, portBase := 0xF0000000, dmaCap := [false, true], map := [] }

end Params

namespace Config

/-- DEPTH_MAX, the largest depth CONFIGURE accepts (00_scope.md R5, 41_index_arithmetic.md R131). -/
def depthMax : Nat := 32767

/-- CONST_WORD, the access width of the constant-address copy in bytes (00_scope.md R5). PRESUMED by the spec itself (G3; log 19). -/
def constWord : Nat := 4

/-- FREE VALUE (log 3): the byte at an address of memory that nothing has written. The spec says only that memory holds
whatever it holds (70_reset_and_hazards.md R330). -/
opaque powerOnByte : Nat → Byte

/-- FREE VALUE (log 4): the word a device answers with once its listed answers are used up, by the number of such answers
drawn before (93_implementation_defined.md U15). -/
opaque deviceWord : Nat → Word

end Config

end Sys2Proof
end

