-- ==== Sys2Proof/Syntax.lean ====
section
/-! DEFINITION. The commands of the block: one constructor per row of spec/opcode_table.json (30_encoding.md R84). A
constructor carries the fields of the COMMAND WORD its row leaves free (CM, OW); the operands A, B and X are the issuing
port's registers (30_encoding.md R80, R82), read when the command is performed. -/

namespace Sys2Proof

/-- A legal command word, decoded. -/
inductive Instr where
  /-- CONFIGURE with the initial overwritable flag OW (40_configuration.md R100). -/
  | configure (ow : Bool)
  /-- CLEAR (R101). -/
  | clear
  /-- SET_OVERWRITABLE with the new flag OW (R102). -/
  | setOverwritable (ow : Bool)
  /-- WRITE (43_write_path.md R160). -/
  | write
  /-- WRITE_N with copy mode CM (R161). -/
  | writeN (cm : CopyMode)
  /-- READ (44_read_path.md R180). -/
  | read
  /-- READ_N with copy mode CM (R181). -/
  | readN (cm : CopyMode)
  /-- PEEK_AT (R182). -/
  | peekAt
  /-- PEEK_AT_N with copy mode CM (R183). -/
  | peekAtN (cm : CopyMode)
  /-- GET_LINEAR_READ_INFO (45_linear_region.md R200). -/
  | getLinearReadInfo
  /-- GET_LINEAR_WRITE_INFO (R201). -/
  | getLinearWriteInfo
  /-- CORRECT_READ_POINTER (42_overflow.md R142). -/
  | correctReadPointer
  /-- COUNT (47_query.md R240). -/
  | count
  /-- EMPTY (R241). -/
  | empty
  /-- FULL (R242). -/
  | full
  /-- REMAINING (R243). -/
  | remaining
  /-- OVERFLOWED (R244). -/
  | overflowed
  /-- ADVANCE_WRITE_POINTER (46_manual_pointer.md R220). -/
  | advanceWritePointer
  /-- ADVANCE_READ_POINTER (R221). -/
  | advanceReadPointer
  /-- BACKWARD_WRITE_POINTER (R222). -/
  | backwardWritePointer
  /-- BACKWARD_READ_POINTER (R223). -/
  | backwardReadPointer
  deriving DecidableEq, Repr

end Sys2Proof
end

