-- ==== Sys2Proof/WellFormed.lean ====
section
/-! DEFINITION. Well-formedness. Every term of Instr is well formed by its type: R83's constraints on CM and OW are its
constructors' shapes. What can be ill formed is an assembler statement (30_encoding.md R88, R89): its named operands, its
`.CONST`, its port and its values are checked here. -/

namespace Sys2Proof

/-- The mnemonics the assembler accepts: the opcode map's 21 (30_encoding.md R84) and the two pseudo-instructions of R89. -/
inductive Mnemonic where
  | configure | clear | setOverwritable | write | writeN | read | readN | peekAt | peekAtN
  | getLinearReadInfo | getLinearWriteInfo | correctReadPointer
  | count | empty | full | remaining | overflowed
  | advanceWritePointer | advanceReadPointer | backwardWritePointer | backwardReadPointer
  | peek | peekN
  deriving DecidableEq, Repr

/-- One statement `p<k>: MNEMONIC[.CONST] [name=value, ...]` (30_encoding.md R88); an operand the text omits is `none`. -/
structure Stmt where
  port : Nat
  op : Mnemonic
  const : Bool := false
  ow : Option Bool := none
  depth : Option Nat := none
  isize : Option Nat := none
  base : Option Nat := none
  src : Option Nat := none
  dst : Option Nat := none
  off : Option Nat := none
  n : Option Nat := none
  deriving DecidableEq, Repr

namespace Stmt

/-- The statement's port is one the block has (10_state.md R29). -/
def portOk (P : Params) (st : Stmt) : Bool := st.port < P.nports

/-- `.CONST` stands only on WRITE_N, READ_N, PEEK_AT_N (30_encoding.md R88) and the pseudo-instruction PEEK_N (R89). -/
def constOk (st : Stmt) : Bool :=
  !st.const || [.writeN, .readN, .peekAtN, .peekN].contains st.op

/-- An operand that is given is one the mnemonic has (30_encoding.md R88). -/
def namesOk (st : Stmt) : Bool :=
  let only (given : Bool) (ms : List Mnemonic) : Bool := !given || ms.contains st.op
  only st.depth.isSome [.configure] && only st.isize.isSome [.configure] && only st.base.isSome [.configure] &&
  only st.ow.isSome [.configure, .setOverwritable] &&
  only st.src.isSome [.write, .writeN] &&
  only st.dst.isSome [.read, .readN, .peekAt, .peekAtN, .peek, .peekN] &&
  only st.off.isSome [.peekAt, .peekAtN, .getLinearReadInfo, .getLinearWriteInfo] &&
  only st.n.isSome [.writeN, .readN, .peekAtN, .peekN, .getLinearReadInfo, .getLinearWriteInfo,
    .advanceWritePointer, .advanceReadPointer, .backwardWritePointer, .backwardReadPointer]

/-- Every value fits its operand register: 16 bits for ARG_A and ARG_B, 32 bits for ARG_ADDR (10_state.md R29). DESIGN CHOICE
(log 22): 30_encoding.md R88 sets no limit on a value; the model refuses a wider one. -/
def valuesOk (st : Stmt) : Bool :=
  let fits (bits : Nat) (v : Option Nat) : Bool := v.getD 0 < 2 ^ bits
  [st.depth, st.isize, st.off, st.n].all (fits 16) && [st.base, st.src, st.dst].all (fits 32)

/-- The statement passes every check. -/
def wf (P : Params) (st : Stmt) : Bool := st.portOk P && st.constOk && st.namesOk && st.valuesOk

end Stmt

end Sys2Proof
end

