-- ==== Sys2Proof/Decode.lean ====
section
/-! DEFINITION. The command word (30_encoding.md): its fields (R81), the legality of R83, the decoder (total, rejecting by
name), what the opcode map says of each operation (R84), and the encoder. -/

namespace Sys2Proof

/-- The fields of a command word (30_encoding.md R81). -/
structure Fields where
  /-- Bits [4:0]. -/
  opc : Nat
  /-- Bits [7:5], reserved. -/
  res1 : Nat
  /-- Bit [8]: false is INC, true is CONST. -/
  cm : Bool
  /-- Bit [9]. -/
  ow : Bool
  /-- Bits [31:10], reserved. -/
  res2 : Nat
  deriving DecidableEq, Repr

/-- `v[hi:lo]` of 00_scope.md R6, as a number. -/
def bitField (hi lo : Nat) (v : Word) : Nat := (v.toNat / 2 ^ lo) % 2 ^ (hi + 1 - lo)

/-- The fields of a word (30_encoding.md R81). -/
def fieldsOf (w : Word) : Fields :=
  { opc := bitField 4 0 w, res1 := bitField 7 5 w, cm := bitField 8 8 w == 1, ow := bitField 9 9 w == 1,
    res2 := bitField 31 10 w }

/-- Why a command word is illegal (30_encoding.md R83, R86). Every reason completes with code ILLEGAL (60_exceptions.md R301). -/
inductive DecodeError where
  /-- R83 (a): a bit of [7:5] or [31:10] is set. -/
  | reservedBits
  /-- R83 (b), R86: the operation code is not assigned. -/
  | reservedOpcode
  /-- R83 (c): CM = 1 on an operation without copy modes. -/
  | copyModeNotAllowed
  /-- R83 (d): OW = 1 on an operation without a mode operand. -/
  | overwritableNotAllowed
  deriving DecidableEq, Repr

/-- What the decoder answers. -/
inductive Decoded where
  | instr (i : Instr)
  | illegal (why : DecodeError)
  deriving DecidableEq, Repr

/-- The copy mode a CM bit names (30_encoding.md R81). -/
def copyModeOf (cm : Bool) : CopyMode := if cm then .const else .inc

/-- An operation with neither CM nor OW: both bits must be 0 (30_encoding.md R83 (c), (d)). -/
def plainOp (f : Fields) (i : Instr) : Decoded :=
  if f.cm then .illegal .copyModeNotAllowed else if f.ow then .illegal .overwritableNotAllowed else .instr i

/-- An operation with a copy mode: OW must be 0 (30_encoding.md R83 (d)). -/
def copyOp (f : Fields) (i : CopyMode → Instr) : Decoded :=
  if f.ow then .illegal .overwritableNotAllowed else .instr (i (copyModeOf f.cm))

/-- An operation with a mode operand: CM must be 0 (30_encoding.md R83 (c)). -/
def owOp (f : Fields) (i : Bool → Instr) : Decoded :=
  if f.cm then .illegal .copyModeNotAllowed else .instr (i f.ow)

/-- The opcode map of 30_encoding.md R84; the other codes are reserved (R86). -/
def decodeOpc (f : Fields) : Decoded :=
  match f.opc with
  | 0x01 => owOp f .configure
  | 0x02 => plainOp f .clear
  | 0x03 => owOp f .setOverwritable
  | 0x04 => plainOp f .write
  | 0x05 => copyOp f .writeN
  | 0x08 => plainOp f .read
  | 0x09 => copyOp f .readN
  | 0x0A => plainOp f .peekAt
  | 0x0B => copyOp f .peekAtN
  | 0x0C => plainOp f .getLinearReadInfo
  | 0x0D => plainOp f .getLinearWriteInfo
  | 0x0E => plainOp f .correctReadPointer
  | 0x10 => plainOp f .count
  | 0x11 => plainOp f .empty
  | 0x12 => plainOp f .full
  | 0x13 => plainOp f .remaining
  | 0x14 => plainOp f .overflowed
  | 0x18 => plainOp f .advanceWritePointer
  | 0x19 => plainOp f .advanceReadPointer
  | 0x1A => plainOp f .backwardWritePointer
  | 0x1B => plainOp f .backwardReadPointer
  | _ => .illegal .reservedOpcode

/-- The decoder: LEGAL of 30_encoding.md R83 and the map of R84 in one. It depends on the word alone (R87). -/
def decode (w : Word) : Decoded :=
  let f := fieldsOf w
  if f.res1 != 0 || f.res2 != 0 then .illegal .reservedBits else decodeOpc f

/-- OPC of an operation (30_encoding.md R84). -/
def Instr.opc : Instr → Nat
  | .configure _ => 0x01
  | .clear => 0x02
  | .setOverwritable _ => 0x03
  | .write => 0x04
  | .writeN _ => 0x05
  | .read => 0x08
  | .readN _ => 0x09
  | .peekAt => 0x0A
  | .peekAtN _ => 0x0B
  | .getLinearReadInfo => 0x0C
  | .getLinearWriteInfo => 0x0D
  | .correctReadPointer => 0x0E
  | .count => 0x10
  | .empty => 0x11
  | .full => 0x12
  | .remaining => 0x13
  | .overflowed => 0x14
  | .advanceWritePointer => 0x18
  | .advanceReadPointer => 0x19
  | .backwardWritePointer => 0x1A
  | .backwardReadPointer => 0x1B

/-- The copy mode of a command: bit CM of its word, INC where R83 (c) makes it 0. -/
def Instr.copyMode : Instr → CopyMode
  | .writeN cm => cm
  | .readN cm => cm
  | .peekAtN cm => cm
  | .configure _ | .clear | .setOverwritable _ | .write | .read | .peekAt
  | .getLinearReadInfo | .getLinearWriteInfo | .correctReadPointer
  | .count | .empty | .full | .remaining | .overflowed
  | .advanceWritePointer | .advanceReadPointer | .backwardWritePointer | .backwardReadPointer => .inc

/-- Bit OW of a command's word, 0 where R83 (d) makes it 0. -/
def Instr.owBit : Instr → Bool
  | .configure ow => ow
  | .setOverwritable ow => ow
  | .clear | .write | .writeN _ | .read | .readN _ | .peekAt | .peekAtN _
  | .getLinearReadInfo | .getLinearWriteInfo | .correctReadPointer
  | .count | .empty | .full | .remaining | .overflowed
  | .advanceWritePointer | .advanceReadPointer | .backwardWritePointer | .backwardReadPointer => false

/-- One of the four manual pointer commands, OPC 0x18 to 0x1B (60_exceptions.md R304, R306). -/
def Instr.manual : Instr → Bool
  | .advanceWritePointer | .advanceReadPointer | .backwardWritePointer | .backwardReadPointer => true
  | .configure _ | .clear | .setOverwritable _ | .write | .writeN _ | .read | .readN _ | .peekAt | .peekAtN _
  | .getLinearReadInfo | .getLinearWriteInfo | .correctReadPointer
  | .count | .empty | .full | .remaining | .overflowed => false

/-- CONFIGURE, the only command accepted while CONFIGURED = 0 (40_configuration.md R100). -/
def Instr.isConfigure : Instr → Bool
  | .configure _ => true
  | .clear | .setOverwritable _ | .write | .writeN _ | .read | .readN _ | .peekAt | .peekAtN _
  | .getLinearReadInfo | .getLinearWriteInfo | .correctReadPointer
  | .count | .empty | .full | .remaining | .overflowed
  | .advanceWritePointer | .advanceReadPointer | .backwardWritePointer | .backwardReadPointer => false

/-- The command uses operand A (30_encoding.md R84, column operands). -/
def Instr.usesA (i : Instr) : Bool := [0x01, 0x0A, 0x0B, 0x0C, 0x0D].contains i.opc

/-- The command uses operand B (30_encoding.md R84, column operands). -/
def Instr.usesB (i : Instr) : Bool :=
  [0x01, 0x05, 0x09, 0x0B, 0x0C, 0x0D, 0x18, 0x19, 0x1A, 0x1B].contains i.opc

/-- The command uses operand X (30_encoding.md R84, column operands). -/
def Instr.usesX (i : Instr) : Bool := [0x01, 0x04, 0x05, 0x08, 0x09, 0x0A, 0x0B].contains i.opc

/-- The CM bit as a number (30_encoding.md R81). -/
def cmBit : CopyMode → Nat
  | .inc => 0
  | .const => 1

/-- The command word of an operation, from the fields of 30_encoding.md R81. -/
def encode (i : Instr) : Word :=
  BitVec.ofNat 32 (i.opc + 2 ^ 8 * cmBit i.copyMode + 2 ^ 9 * i.owBit.toNat)

/-- The mask of the operation's row in spec/opcode_table.json (30_encoding.md R85). -/
def Instr.rowMask : Instr → Word
  | .configure _ | .setOverwritable _ => 0xFFFFFDFF
  | .writeN _ | .readN _ | .peekAtN _ => 0xFFFFFEFF
  | .clear | .write | .read | .peekAt
  | .getLinearReadInfo | .getLinearWriteInfo | .correctReadPointer
  | .count | .empty | .full | .remaining | .overflowed
  | .advanceWritePointer | .advanceReadPointer | .backwardWritePointer | .backwardReadPointer => 0xFFFFFFFF

/-- The 26 legal command words, as 30_encoding.md R85 lists them. -/
def legalWords : List Word :=
  [0x001, 0x201, 0x002, 0x003, 0x203, 0x004, 0x005, 0x105, 0x008, 0x009, 0x109, 0x00A, 0x00B, 0x10B,
   0x00C, 0x00D, 0x00E, 0x010, 0x011, 0x012, 0x013, 0x014, 0x018, 0x019, 0x01A, 0x01B]

/-- The instruction the decoder reads from a table word: one 32-bit command word (30_encoding.md R80); the bits above
`nbits` are 0. -/
def decodeTableWord (nbits w : Nat) : Option Instr :=
  match decode (BitVec.ofNat 32 (w % 2 ^ nbits)) with
  | .instr i => some i
  | .illegal _ => none

end Sys2Proof
end

