-- ==== Sys2Proof/Machine/State.lean ====
section
/-! DEFINITION. The state of the block as plain data (10_state.md), with the model's own fields (INVENTORY.md, State),
and the state after reset (70_reset_and_hazards.md R330). -/

namespace Sys2Proof.Machine

open Sys2Proof

/-- The completion codes of 60_exceptions.md R301; code 7 is reserved and no command writes it. -/
inductive Code where
  /-- 0: performed. -/
  | ok
  /-- 1: the command word is illegal. -/
  | illegal
  /-- 2: CONFIGURED = 0. -/
  | unconfigured
  /-- 3: a manual pointer command on a port without the DMA capability. -/
  | capability
  /-- 4: CM = 1 and the constant address is not 4-byte aligned. -/
  | align
  /-- 5: GET_LINEAR_WRITE_INFO with OVW = 1 and n > 2·DEPTH. -/
  | contract
  /-- 6: WRITE with DEPTH = 0 and OVW = 1. -/
  | depthZero
  deriving DecidableEq, Repr

/-- One port's registers (10_state.md R29) and its pending command (R30, R32). STATUS.BUSY is `pending` being there (log 12). -/
structure PortState where
  argA : U16
  argB : U16
  argAddr : Word
  code : Code
  resVal : U16
  resPtr : Word
  /-- The command word issued and not yet completed; its operands are the operand registers, which keep their values while
  BUSY = 1 (R30; log 11). -/
  pending : Option Word
  deriving DecidableEq, Repr

/-- A port's registers after reset (70_reset_and_hazards.md R330). -/
def PortState.reset : PortState :=
  { argA := 0, argB := 0, argAddr := 0, code := .ok, resVal := 0, resPtr := 0, pending := none }

/-- One access on the block's memory port (20_memory.md R51): the address and the bytes, lane 0 first. -/
inductive Access where
  /-- MemRead(addr, n) and the n bytes it returned. -/
  | rd (addr : Nat) (bytes : List Byte)
  /-- MemWrite(addr, n, bytes). -/
  | wr (addr : Nat) (bytes : List Byte)
  deriving DecidableEq, Repr

/-- Everything behind the memory port (20_memory.md R50): memory, the devices' answers, other masters, and the record of
the block's accesses. -/
structure Bus where
  /-- Memory in canonical form: strictly rising addresses; an address not listed holds a byte nothing has written (log 3). -/
  mem : List Host.Cell
  /-- The answers of devices to read accesses still to come, each with the address it answers (U15; log 4). -/
  rx : List (Nat × Word)
  /-- What other masters write just before the block's next access, before the one after it, and so on (R68; log 7). -/
  race : List (List Host.Cell)
  /-- The accesses the block has made, newest first (00_scope.md R13, 20_memory.md R59; log 14). -/
  log : List Access
  /-- How many free device words have been drawn (log 4). -/
  drawn : Nat
  deriving DecidableEq, Repr

/-- What happens outside the block, and which command the engine performs (00_scope.md R12; log 5). -/
inductive Event where
  /-- The engine performs port p's pending command (10_state.md R32). -/
  | grant (p : Nat)
  /-- A host write of `width` bytes at a platform address (10_state.md R29, R30). -/
  | hostWrite (addr width : Nat) (v : Word)
  /-- A host read of `width` bytes at a platform address (10_state.md R29). -/
  | hostRead (addr width : Nat)
  /-- Another bus master writes one byte of memory (00_scope.md R12(c)). -/
  | masterWrite (addr : Nat) (b : Byte)
  /-- The reset input is asserted, between two atomic steps (70_reset_and_hazards.md R330, R331). -/
  | reset
  deriving DecidableEq, Repr

/-- What the host bus answered to the last host access (10_state.md R29, 60_exceptions.md R314; log 15). -/
inductive HostResp where
  /-- No host access yet. -/
  | noAccess
  /-- A write was taken (it may have been ignored: R30). -/
  | written
  /-- The value a read returned. -/
  | data (v : Word)
  /-- Refused: not a 32-bit aligned access (R314). -/
  | busError
  /-- The access does not touch a port window. -/
  | notSelected
  deriving DecidableEq, Repr

/-- The machine's state. The block's registers are named as in 10_state.md R20. -/
structure State where
  /-- The implementation parameters (00_scope.md R5); nothing writes them (log 1). -/
  params : Params
  /-- S0 CONFIGURED (R21). -/
  configured : Bool
  /-- S1 BUF_BASE (R22). -/
  bufBase : Word
  /-- S2 DEPTH (R23). -/
  depth : U16
  /-- S3 ITEM_SIZE (R24). -/
  itemSize : U16
  /-- S4 OVW (R25). -/
  ovw : Bool
  /-- S5 MAX_INDEX (R26). -/
  maxIndex : U16
  /-- S6 UNUSED (R26). -/
  unused : U16
  /-- S7 WR_IDX (R27). -/
  wrIdx : U16
  /-- S8 RD_IDX (R27). -/
  rdIdx : U16
  /-- The port registers, port 0 first (R29). -/
  ports : List PortState
  /-- Ghost SPAN (R33). -/
  span : Int
  /-- Ghost fault: a command has left the contract broken (R34). -/
  ghostFault : Bool
  /-- The port whose command is or was last performed: the P of 00_scope.md R8 (log 9). -/
  cur : Nat
  /-- Everything behind the memory port (20_memory.md). -/
  bus : Bus
  /-- The events still to come, the next one first (log 5). -/
  agenda : List Event
  /-- The host bus's answer to the last host access (log 15). -/
  resp : HostResp
  deriving DecidableEq, Repr

/-- Why an instruction has no performance step. -/
inductive Fault where
  /-- Raised by the data-moving commands: the platform memory does not admit an access the command must make, so the command
  has no performance step and its port stays BUSY (20_memory.md R54, 93_implementation_defined.md U6). `step` leaves the
  command pending and goes on. Safe: nothing is done (log 6). -/
  | notAdmitted
  /-- Raised by every command: `cur` names a port the block does not have (10_state.md R29: p in [0, NPORTS)). `step` never
  sets such a port. Safe (log 17). -/
  | noSuchPort
  deriving DecidableEq, Repr

/-- Why an instruction has no meaning in the model. -/
inductive Refusal where
  /-- Raised by an arm of exec whose instruction has no meaning yet: none is left. Safe. -/
  | notModelled (mnemonic : String)
  deriving DecidableEq, Repr

/-- The memory port's side as the machine starts: memory nothing has written, no answers, no other masters, no access yet. -/
def Bus.initial : Bus := { mem := [], rx := [], race := [], log := [], drawn := 0 }

/-- The state right after reset with parameters P (70_reset_and_hazards.md R330). -/
def State.resetWith (P : Params) : State :=
  { params := P
    configured := false
    bufBase := 0
    depth := 0
    itemSize := 0
    ovw := false
    maxIndex := 0xFFFF
    unused := 0x0000
    wrIdx := 0x0000
    rdIdx := 0x0000
    ports := P.dmaCap.map fun _ => PortState.reset
    span := 0
    ghostFault := false
    cur := 0
    bus := Bus.initial
    agenda := []
    resp := .noAccess }

/-- The machine right after reset (70_reset_and_hazards.md R330), with the parameters of Params.default (log 1). -/
def State.reset : State := State.resetWith Params.default

end Sys2Proof.Machine
end

