-- ==== Sys2Proof/Machine/Flags.lean ====
section
/-! DEFINITION. The count predicates of 41_index_arithmetic.md R124 (the block has no flags register, 10_state.md R36) and
the contract of 10_state.md R34, the condition of the ghost fault. -/

namespace Sys2Proof.Machine

open Sys2Proof

/-- CNT(c) = min(c, DEPTH) (R124). -/
def cnt (depth c : U16) : U16 := if c ≤ depth then c else depth

/-- REMAIN(c) = DEPTH - CNT(c) (R124). -/
def remain (depth c : U16) : U16 := depth - cnt depth c

/-- FULLP(c): CNT(c) = DEPTH (R124). -/
def fullp (depth c : U16) : Bool := cnt depth c == depth

/-- OVFP(c): c > DEPTH, the overflow signal (R124, 42_overflow.md R140). -/
def ovfp (depth c : U16) : Bool := depth < c

/-- A Boolean written to a register (00_scope.md R6). -/
def boolU16 (b : Bool) : U16 := if b then 1 else 0

/-- The contract (10_state.md R34). -/
def State.contract (s : State) : Bool :=
  if s.depth = 0 then s.span = 0 ∧ s.wrIdx = s.rdIdx
  else s.wrIdx.toNat < 2 * s.depth.toNat ∧ s.rdIdx.toNat < 2 * s.depth.toNat ∧
    0 ≤ s.span ∧ s.span < 2 * s.depth.toNat

/-- Record the ghost fault if the contract is broken; it is never cleared here (10_state.md R34). -/
def State.recordGhost (s : State) : State :=
  { s with ghostFault := s.ghostFault || !s.contract }

end Sys2Proof.Machine
end

