-- ==== Sys2Proof/Machine/Index.lean ====
section
/-! DEFINITION. Index arithmetic (41_index_arithmetic.md R120 to R123): the four functions over u16 values, given the
extended-index constants, and the same functions reading a state's registers. -/

namespace Sys2Proof.Machine

open Sys2Proof

/-- MAX_INDEX as CONFIGURE and CLEAR compute it from a depth (10_state.md R26): `(2*d) -16 1`. -/
def maxIndexOf (d : U16) : U16 := 2 * d - 1

/-- UNUSED as CONFIGURE and CLEAR compute it (10_state.md R26): `0xFFFF -16 MAX_INDEX`. -/
def unusedOf (d : U16) : U16 := 0xFFFF - maxIndexOf d

/-- ADV(p, o) (R120). -/
def adv (maxIndex unused p o : U16) : U16 :=
  let s := p + o
  if 2 ^ 16 ≤ p.toNat + o.toNat ∨ maxIndex < s then s + unused else s

/-- BWD(p, o) (R121). -/
def bwd (maxIndex unused p o : U16) : U16 :=
  let s := p - o
  if p < o ∨ maxIndex < s then s - unused else s

/-- RAWCNT(w, r) (R123). -/
def rawcnt (unused w r : U16) : U16 :=
  let c := w - r
  if w < r then c - unused else c

/-- REL(p, o) (R122): a slot index below the depth; `none` where the rule raises DEPTH_ZERO. -/
def rel (depth maxIndex unused p o : U16) : Option Nat :=
  if depth = 0 then none else some ((adv maxIndex unused p o).toNat % depth.toNat)

namespace State

/-- ADV with the state's MAX_INDEX and UNUSED (R120). -/
def adv (s : State) (p o : U16) : U16 := Machine.adv s.maxIndex s.unused p o

/-- BWD with the state's MAX_INDEX and UNUSED (R121). -/
def bwd (s : State) (p o : U16) : U16 := Machine.bwd s.maxIndex s.unused p o

/-- REL with the state's DEPTH, MAX_INDEX and UNUSED (R122). -/
def rel (s : State) (p o : U16) : Option Nat := Machine.rel s.depth s.maxIndex s.unused p o

/-- RAWCNT(WR_IDX, RD_IDX) (R123; 10_state.md R28). -/
def rawCount (s : State) : U16 := rawcnt s.unused s.wrIdx s.rdIdx

end State

end Sys2Proof.Machine
end

