-- ==== Sys2Proof/Machine/Operands.lean ====
section
/-! DEFINITION. Operand assembly (30_encoding.md R82): A, B and X of the port whose command is performed. The operand
registers keep their values while the command is pending (10_state.md R30; log 11). -/

namespace Sys2Proof.Machine

open Sys2Proof

namespace State

/-- The registers of the issuing port, the `P.` of 00_scope.md R8. -/
def curPort (s : State) : PortState := s.ports.getD s.cur PortState.reset

/-- A = ARG_A[15:0] (R82). -/
def opA (s : State) : U16 := s.curPort.argA

/-- B = ARG_B[15:0] (R82). -/
def opB (s : State) : U16 := s.curPort.argB

/-- X = ARG_ADDR mod 2^ADDR_W (R82). -/
def opX (s : State) : Nat := s.curPort.argAddr.toNat % s.params.space

/-- ARG_ADDR[1:0] ≠ 0: not a CONST-mode address (20_memory.md R62). -/
def misaligned (s : State) : Bool := s.curPort.argAddr.toNat % Config.constWord != 0

/-- PORT_DMA_CAP of the issuing port (60_exceptions.md R306). -/
def dmaCapable (s : State) : Bool := s.params.dmaCap.getD s.cur false

end State

end Sys2Proof.Machine
end

