-- ==== Sys2Proof/Machine/Ops.lean ====
section
/-! DEFINITION. The named operations: memory in canonical form, the memory port's two accesses (20_memory.md R51 to R54, R61),
the cursor and result registers, completing a command, raising an error (60_exceptions.md R303) and the prologue (R304). The
block has no trap entry and no trap return (R310): raising an error is all it has of either. -/

namespace Sys2Proof.Machine

open Sys2Proof

/-! ## Memory -/

namespace Memory

/-- The canonical form: addresses strictly rising. An unlisted address reads as no value (log 3), so no entry can equal it. -/
abbrev wf (m : List Host.Cell) : Prop := m.Pairwise fun x y => x.1 < y.1

/-- The byte written at an address, `none` where nothing has written since the machine started (log 3). -/
def read : List Host.Cell → Nat → Option Byte
  | [], _ => none
  | (x, v) :: m, a => if a = x then some v else read m a

/-- Write one byte, keeping the canonical form. -/
def write : List Host.Cell → Nat → Byte → List Host.Cell
  | [], a, b => [(a, b)]
  | (x, v) :: m, a, b =>
    if a < x then (a, b) :: (x, v) :: m
    else if a = x then (a, b) :: m
    else (x, v) :: write m a b

end Memory

/-! ## The platform's map -/

/-- What the first region holding an address says of it; ordinary memory where none does (log 2). -/
def kindIn : List Region → Nat → RegionKind
  | [], _ => .ram
  | r :: rs, a => if r.base ≤ a ∧ a < r.base + r.size then r.kind else kindIn rs a

/-- A read access to a byte of this kind is admitted (20_memory.md R54). -/
def RegionKind.readable : RegionKind → Bool
  | .ram | .readOnly | .device => true
  | .writeOnly | .absent => false

/-- A write access to a byte of this kind is admitted (20_memory.md R54). -/
def RegionKind.writable : RegionKind → Bool
  | .ram | .writeOnly | .device => true
  | .readOnly | .absent => false

/-- A write to a byte of this kind, by the block or by another master, stores it in memory. DESIGN CHOICE (log 21): no agent
writes a `readOnly` byte; the spec leaves to the platform whether another master can. -/
def RegionKind.stores : RegionKind → Bool
  | .ram | .writeOnly => true
  | .readOnly | .absent | .device => false

/-- The platform admits a read of the byte (20_memory.md R54). -/
def readable (P : Params) (a : Nat) : Bool := RegionKind.readable (kindIn P.map a)

/-- The platform admits a write of the byte (20_memory.md R54). -/
def writable (P : Params) (a : Nat) : Bool := RegionKind.writable (kindIn P.map a)

/-- A write of the byte stores it in memory. -/
def storable (P : Params) (a : Nat) : Bool := RegionKind.stores (kindIn P.map a)

/-- The byte belongs to a device register (93_implementation_defined.md U15). -/
def isDevice (P : Params) (a : Nat) : Bool := kindIn P.map a == .device

/-! ## The memory port -/

/-- The n byte addresses of an access, each reduced modulo 2^ADDR_W (00_scope.md R9, 20_memory.md R52). -/
def laneAddrs (P : Params) (a n : Nat) : List Nat := (List.range n).map fun j => (a + j) % P.space

/-- Lane j of a 32-bit value: bits [8j+7:8j] (20_memory.md R61). -/
def lane (w : Word) (j : Nat) : Byte := w.extractLsb' (8 * j) 8

/-- Store a list of bytes at a list of addresses, in lane order, where memory is what stands there. -/
def storeLanes (P : Params) : List Nat → List Byte → List Host.Cell → List Host.Cell
  | a :: as, b :: bs, m => storeLanes P as bs (if storable P a then Memory.write m a b else m)
  | _, _, m => m

/-- Another bus master writes one byte of memory (00_scope.md R12(c), 20_memory.md R68). DESIGN CHOICE (log 21): the write is
dropped where the map has a device or nothing, and also on `readOnly` memory, which the block may only read: the spec leaves to
the platform whether another master can write there. DESIGN CHOICE (log 23): the address is taken modulo 2^ADDR_W, which the spec
says of the block's own addresses only. -/
def masterStore (P : Params) (c : Host.Cell) (m : List Host.Cell) : List Host.Cell :=
  let a := c.1 % P.space
  if storable P a then Memory.write m a c.2 else m

namespace Bus

/-- The byte memory holds at an address; a free value where nothing has written it (log 3). -/
def byteAt (b : Bus) (a : Nat) : Byte := (Memory.read b.mem a).getD (Config.powerOnByte a)

/-- The other masters' writes that land just before the block's next access (20_memory.md R68). -/
def arrive (P : Params) (b : Bus) : Bus :=
  match b.race with
  | [] => b
  | ws :: rest => { b with race := rest, mem := ws.foldl (fun m c => masterStore P c m) b.mem }

/-- The first listed answer of the device at an address, and the other answers. -/
def takeAnswer (a : Nat) : List (Nat × Word) → Option (Word × List (Nat × Word))
  | [] => none
  | (x, w) :: rs =>
    if x = a then some (w, rs)
    else match takeAnswer a rs with
      | none => none
      | some (v, rest) => some (v, (x, w) :: rest)

/-- What a device answers to a read access at an address: its next listed answer, then free values (U15; log 4). -/
def deviceAnswer (a : Nat) (b : Bus) : Word × Bus :=
  match takeAnswer a b.rx with
  | some (w, rest) => (w, { b with rx := rest })
  | none => (Config.deviceWord b.drawn, { b with drawn := b.drawn + 1 })

/-- MemRead(a, n) (00_scope.md R9): the bytes, lane 0 first; `none` where the platform does not admit the access (20_memory.md R54). -/
def readAccess (P : Params) (a n : Nat) (b0 : Bus) : Option (List Byte × Bus) :=
  let b := b0.arrive P
  let as := laneAddrs P a n
  if as.all (readable P) then
    if as.any (isDevice P) then
      let r := b.deviceAnswer (a % P.space)
      let bytes := (List.range n).map (lane r.1)
      some (bytes, { r.2 with log := .rd (a % P.space) bytes :: r.2.log })
    else
      let bytes := as.map b.byteAt
      some (bytes, { b with log := .rd (a % P.space) bytes :: b.log })
  else none

/-- MemWrite(a, n, bytes) with n the number of bytes (00_scope.md R9); `none` where the platform does not admit the access
(20_memory.md R54). Bytes of a device are the device's: they are recorded and change no memory (log 4). -/
def writeAccess (P : Params) (a : Nat) (bytes : List Byte) (b0 : Bus) : Option Bus :=
  let b := b0.arrive P
  let as := laneAddrs P a bytes.length
  if as.all (writable P) then
    some { b with mem := storeLanes P as bytes b.mem, log := .wr (a % P.space) bytes :: b.log }
  else none

end Bus

/-! ## Registers -/

namespace State

/-- Write WR_IDX and the ghost SPAN with it (10_state.md R33). -/
def setWr (v : U16) (span : Int) (s : State) : State := { s with wrIdx := v, span := span }

/-- Write RD_IDX and the ghost SPAN with it (10_state.md R33). -/
def setRd (v : U16) (span : Int) (s : State) : State := { s with rdIdx := v, span := span }

/-- Change what stands behind the memory port. -/
def withBus (b : Bus) (s : State) : State := { s with bus := b }

/-- Complete the issuing port's command: STATUS.CODE, RES_VAL and RES_PTR are written and STATUS.BUSY becomes 0 in one step
(10_state.md R30, R31). -/
def complete (code : Code) (val : U16) (ptr : Word) (s : State) : State :=
  { s with ports := s.ports.modify s.cur fun p =>
      { p with code := code, resVal := val, resPtr := ptr, pending := none } }

/-- A command performed by its rule: the ghost fault is recorded if it leaves the contract broken (10_state.md R34), and it
completes with code OK (60_exceptions.md R300). -/
def finish (val : U16) (ptr : Word) (s : State) : State := s.recordGhost.complete .ok val ptr

/-- `raise Error(code)` (60_exceptions.md R303): the code, RES_VAL = 0, RES_PTR = 0, and nothing else. -/
def raiseError (code : Code) (s : State) : State := s.complete code 0 0

/-- The correction of the read cursor: RD_IDX <- BWD(WR_IDX, DEPTH), SPAN <- DEPTH (42_overflow.md R141, R142; 10_state.md R33). -/
def correct (s : State) : State := s.setRd (s.bwd s.wrIdx s.depth) s.depth.toNat

end State

/-! ## The prologue -/

/-- PROLOGUE (60_exceptions.md R304) after the word has been decoded (LEGAL is `decode`), then the operation's own rule `body`. -/
def prologue (i : Instr) (s : State) (body : State → Host.Outcome State Fault Refusal) :
    Host.Outcome State Fault Refusal :=
  if s.ports.length ≤ s.cur then .fault .noSuchPort
  else if i.manual && !s.dmaCapable then .next (s.raiseError .capability)
  else if !i.isConfigure && !s.configured then .next (s.raiseError .unconfigured)
  else if i.copyMode == .const && s.misaligned then .next (s.raiseError .align)
  else body s

end Sys2Proof.Machine
end

