-- ==== Sys2Proof/Machine/Configuration.lean ====
section
/-! DEFINITION. CONFIGURE, CLEAR, SET_OVERWRITABLE (40_configuration.md R100 to R105). -/

namespace Sys2Proof.Machine

open Sys2Proof

/-- The registers an accepted CONFIGURE writes (R100), with SPAN <- 0 (10_state.md R33). -/
def State.configureRegs (s : State) (d isz : U16) (base : Nat) (ow : Bool) : State :=
  { s with
    bufBase := BitVec.ofNat 32 base
    depth := d
    itemSize := isz
    ovw := ow
    maxIndex := maxIndexOf d
    unused := unusedOf d
    wrIdx := 0
    rdIdx := 0
    configured := true
    span := 0 }

/-- The registers CLEAR writes (R101), with SPAN <- 0 (10_state.md R33). -/
def State.clearRegs (s : State) : State :=
  { s with
    wrIdx := 0
    rdIdx := 0
    maxIndex := maxIndexOf s.depth
    unused := unusedOf s.depth
    span := 0 }

/-- The register SET_OVERWRITABLE writes (R102). -/
def State.setOvw (ow : Bool) (s : State) : State := { s with ovw := ow }

/-- CONFIGURE (R100): a depth above 32767 is rejected with RES_VAL = 0 and code OK. -/
def execConfigure (ow : Bool) (s : State) : Host.Outcome State Fault Refusal :=
  prologue (.configure ow) s fun s =>
    if Config.depthMax < s.opA.toNat then .next (s.finish 0 0)
    else .next ((s.configureRegs s.opA s.opB s.opX ow).finish 1 0)

/-- CLEAR (R101). -/
def execClear (s : State) : Host.Outcome State Fault Refusal :=
  prologue .clear s fun s => .next (s.clearRegs.finish 1 0)

/-- SET_OVERWRITABLE (R102). -/
def execSetOverwritable (ow : Bool) (s : State) : Host.Outcome State Fault Refusal :=
  prologue (.setOverwritable ow) s fun s => .next ((s.setOvw ow).finish 1 0)

end Sys2Proof.Machine
end

