-- ==== Sys2Proof/Machine/Copy.lean ====
section
/-! DEFINITION. The copy procedures PUSH and PULL (20_memory.md R53, R55 to R59). Each answers the memory port's side after
the copy, or `none` where the platform does not admit an access, which leaves the command without a performance step (R54). -/

namespace Sys2Proof.Machine

open Sys2Proof

/-- What a copy reads of the block: the backing store and the parameters. -/
structure Store where
  params : Params
  base : Nat
  depth : Nat
  isize : Nat
  deriving DecidableEq, Repr

namespace Store

/-- CAP = DEPTH·ITEM_SIZE (R53). -/
def cap (g : Store) : Nat := g.depth * g.isize

/-- BA(rel0, t) (R53). -/
def ba (g : Store) (rel0 t : Nat) : Nat := (g.base + (rel0 * g.isize + t) % g.cap) % g.params.space

end Store

/-- `for t in 0 .. n-1 (increasing)`, stopping at the first access that is not admitted. -/
def upTo (body : Nat → Bus → Option Bus) : Nat → Bus → Option Bus
  | 0, b => some b
  | n + 1, b => (upTo body n b).bind (body n)

/-- PUSH in INC mode (R55), with L and S in bytes. -/
def pushInc (g : Store) (xa rel0 L S : Nat) : Bus → Option Bus :=
  upTo (fun t b =>
    (b.readAccess g.params (xa + S + t) 1).bind fun r =>
      r.2.writeAccess g.params (g.ba rel0 t) r.1) L

/-- The stores of one stream word in PUSH's CONST mode: lane j is stream byte 4i + j, kept where S ≤ 4i + j < T (R56). -/
def pushLanes (g : Store) (rel0 S T i : Nat) (word : List Byte) : Bus → Option Bus :=
  upTo (fun j b =>
    if S ≤ Config.constWord * i + j ∧ Config.constWord * i + j < T then
      b.writeAccess g.params (g.ba rel0 (Config.constWord * i + j - S)) [word.getD j 0]
    else some b) Config.constWord

/-- PUSH in CONST mode (R56): ceil(T / 4) reads of the fixed address, T = S + L. -/
def pushConst (g : Store) (xa rel0 L S : Nat) : Bus → Option Bus :=
  upTo (fun i b =>
    (b.readAccess g.params xa Config.constWord).bind fun r =>
      pushLanes g rel0 S (S + L) i r.1 r.2) ((S + L + Config.constWord - 1) / Config.constWord)

/-- PUSH(cm, xa, rel0, n, skip) (R55, R56). -/
def push (g : Store) (cm : CopyMode) (xa rel0 n skip : Nat) (b : Bus) : Option Bus :=
  match cm with
  | .inc => pushInc g xa rel0 (n * g.isize) (skip * g.isize) b
  | .const => pushConst g xa rel0 (n * g.isize) (skip * g.isize) b

/-- PULL in INC mode (R57), with L in bytes. -/
def pullInc (g : Store) (xa rel0 L : Nat) : Bus → Option Bus :=
  upTo (fun t b =>
    (b.readAccess g.params (g.ba rel0 t) 1).bind fun r =>
      r.2.writeAccess g.params (xa + t) r.1) L

/-- The first k lanes of stream word i in PULL's CONST mode: a byte of the backing store below L, 0x00 from L on (R58). -/
def pullLanes (g : Store) (rel0 L i : Nat) : Nat → Bus → Option (List Byte × Bus)
  | 0, b => some ([], b)
  | k + 1, b =>
    (pullLanes g rel0 L i k b).bind fun r =>
      if Config.constWord * i + k < L then
        (r.2.readAccess g.params (g.ba rel0 (Config.constWord * i + k)) 1).map fun q => (r.1 ++ q.1, q.2)
      else some (r.1 ++ [0x00], r.2)

/-- PULL in CONST mode (R58): ceil(L / 4) writes to the fixed address. -/
def pullConst (g : Store) (xa rel0 L : Nat) : Bus → Option Bus :=
  upTo (fun i b =>
    (pullLanes g rel0 L i Config.constWord b).bind fun r =>
      r.2.writeAccess g.params xa r.1) ((L + Config.constWord - 1) / Config.constWord)

/-- PULL(cm, xa, rel0, n) (R57, R58). -/
def pull (g : Store) (cm : CopyMode) (xa rel0 n : Nat) (b : Bus) : Option Bus :=
  match cm with
  | .inc => pullInc g xa rel0 (n * g.isize) b
  | .const => pullConst g xa rel0 (n * g.isize) b

namespace State

/-- The backing store a state's registers describe (10_state.md R22, R53). -/
def store (s : State) : Store :=
  { params := s.params, base := s.bufBase.toNat, depth := s.depth.toNat, isize := s.itemSize.toNat }

/-- Address of a slot: (BUF_BASE + slot·ITEM_SIZE) mod 2^ADDR_W (45_linear_region.md R200, R201). -/
def slotAddr (s : State) (slot : Nat) : Word :=
  BitVec.ofNat 32 ((s.bufBase.toNat + slot * s.itemSize.toNat) % s.params.space)

end State

/-- Go on after a copy; a copy with an access that is not admitted leaves no performance step (20_memory.md R54). -/
def afterCopy (s : State) (r : Option Bus) (k : State → Host.Outcome State Fault Refusal) :
    Host.Outcome State Fault Refusal :=
  match r with
  | none => .fault .notAdmitted
  | some b => k (s.withBus b)

end Sys2Proof.Machine
end

