-- ==== Sys2Proof/Machine/Overflow.lean ====
section
/-! DEFINITION. Overflow detection and correction (42_overflow.md R140 to R146): CHECK_CORRECT and CORRECT_READ_POINTER. -/

namespace Sys2Proof.Machine

open Sys2Proof

/-- What CHECK_CORRECT gives its caller (R141): the state with RD_IDX possibly corrected, the read cursor r to use, and the
available count c. -/
structure Checked where
  st : State
  r : U16
  c : U16
  deriving DecidableEq, Repr

/-- CHECK_CORRECT (R141). -/
def checkCorrect (s : State) : Checked :=
  if ovfp s.depth s.rawCount then
    { st := s.correct, r := s.bwd s.wrIdx s.depth, c := s.depth }
  else { st := s, r := s.rdIdx, c := s.rawCount }

/-- CORRECT_READ_POINTER (R142): unconditional. -/
def execCorrectReadPointer (s : State) : Host.Outcome State Fault Refusal :=
  prologue .correctReadPointer s fun s => .next (s.correct.finish 1 0)

end Sys2Proof.Machine
end

