-- ==== Sys2Proof/Machine/LinearRegion.lean ====
section
/-! DEFINITION. Linear-region access (45_linear_region.md R200 to R204): GET_LINEAR_READ_INFO and GET_LINEAR_WRITE_INFO. -/

namespace Sys2Proof.Machine

open Sys2Proof

/-- Answer the run of at most n items from a slot to the physical end of the array (R200, R201, their last lines). -/
def State.finishRun (slot n : Nat) (s : State) : State :=
  s.finish (BitVec.ofNat 16 (min n (s.depth.toNat - slot))) (s.slotAddr slot)

/-- GET_LINEAR_READ_INFO (R200). -/
def execGetLinearReadInfo (s : State) : Host.Outcome State Fault Refusal :=
  prologue .getLinearReadInfo s fun s =>
    let k := checkCorrect s
    let nEff := min s.opB.toNat (k.c.toNat - s.opA.toNat)
    if k.c ≤ s.opA ∨ nEff = 0 then .next (k.st.finish 0 0)
    else
      match k.st.rel k.r s.opA with
      | none => .next (s.raiseError .depthZero)
      | some rrel => .next (k.st.finishRun rrel nEff)

/-- What GET_LINEAR_WRITE_INFO chooses before it forms the run (R201): the count and the cursor it starts from, or `none`
where it raises CONTRACT. -/
def lwsel (s : State) (o n : Nat) : Option (Nat × U16) :=
  if !s.ovw then
    let free := (remain s.depth s.rawCount).toNat
    some (if free ≤ o then 0 else min n (free - o), s.wrIdx)
  else if s.depth.toNat ≤ n then
    if 2 * s.depth.toNat < n then none else some (s.depth.toNat, s.rdIdx)
  else some (n, s.wrIdx)

/-- GET_LINEAR_WRITE_INFO (R201). -/
def execGetLinearWriteInfo (s : State) : Host.Outcome State Fault Refusal :=
  prologue .getLinearWriteInfo s fun s =>
    match lwsel s s.opA.toNat s.opB.toNat with
    | none => .next (s.raiseError .contract)
    | some (nEff, wEff) =>
      if nEff = 0 then .next (s.finish 0 0)
      else
        match s.rel wEff s.opA with
        | none => .next (s.raiseError .depthZero)
        | some wrel => .next (s.finishRun wrel nEff)

end Sys2Proof.Machine
end

