-- ==== Sys2Proof/Machine/ManualPointer.lean ====
section
/-! DEFINITION. Manual pointer control (46_manual_pointer.md R220 to R226): no check of any kind after the prologue; SPAN
moves with the cursor (10_state.md R33). -/

namespace Sys2Proof.Machine

open Sys2Proof

/-- ADVANCE_WRITE_POINTER (R220). -/
def execAdvanceWritePointer (s : State) : Host.Outcome State Fault Refusal :=
  prologue .advanceWritePointer s fun s =>
    .next ((s.setWr (s.adv s.wrIdx s.opB) (s.span + s.opB.toNat)).finish 1 0)

/-- ADVANCE_READ_POINTER (R221). -/
def execAdvanceReadPointer (s : State) : Host.Outcome State Fault Refusal :=
  prologue .advanceReadPointer s fun s =>
    .next ((s.setRd (s.adv s.rdIdx s.opB) (s.span - s.opB.toNat)).finish 1 0)

/-- BACKWARD_WRITE_POINTER (R222). -/
def execBackwardWritePointer (s : State) : Host.Outcome State Fault Refusal :=
  prologue .backwardWritePointer s fun s =>
    .next ((s.setWr (s.bwd s.wrIdx s.opB) (s.span - s.opB.toNat)).finish 1 0)

/-- BACKWARD_READ_POINTER (R223). -/
def execBackwardReadPointer (s : State) : Host.Outcome State Fault Refusal :=
  prologue .backwardReadPointer s fun s =>
    .next ((s.setRd (s.bwd s.rdIdx s.opB) (s.span + s.opB.toNat)).finish 1 0)

end Sys2Proof.Machine
end

