-- ==== Sys2Proof/Machine/Query.lean ====
section
/-! DEFINITION. The queries (47_query.md R240 to R247): one snapshot c = RAWCNT(WR_IDX, RD_IDX), then the port's results. -/

namespace Sys2Proof.Machine

open Sys2Proof

/-- COUNT (R240). -/
def execCount (s : State) : Host.Outcome State Fault Refusal :=
  prologue .count s fun s => .next (s.finish (cnt s.depth s.rawCount) 0)

/-- EMPTY (R241). -/
def execEmpty (s : State) : Host.Outcome State Fault Refusal :=
  prologue .empty s fun s => .next (s.finish (boolU16 (s.rawCount == 0)) 0)

/-- FULL (R242). -/
def execFull (s : State) : Host.Outcome State Fault Refusal :=
  prologue .full s fun s => .next (s.finish (boolU16 (fullp s.depth s.rawCount)) 0)

/-- REMAINING (R243). -/
def execRemaining (s : State) : Host.Outcome State Fault Refusal :=
  prologue .remaining s fun s => .next (s.finish (remain s.depth s.rawCount) 0)

/-- OVERFLOWED (R244). -/
def execOverflowed (s : State) : Host.Outcome State Fault Refusal :=
  prologue .overflowed s fun s => .next (s.finish (boolU16 (ovfp s.depth s.rawCount)) 0)

end Sys2Proof.Machine
end

