-- ==== Sys2Proof/Machine/ReadPath.lean ====
section
/-! DEFINITION. The read path (44_read_path.md R180 to R185): READ, READ_N, PEEK_AT, PEEK_AT_N. Each first calls
CHECK_CORRECT (42_overflow.md R141). REL is reached with c ≥ 1 only, so its DEPTH_ZERO cannot be raised here (R180; log 18). -/

namespace Sys2Proof.Machine

open Sys2Proof

/-- READ (R180). -/
def execRead (s : State) : Host.Outcome State Fault Refusal :=
  prologue .read s fun s =>
    let k := checkCorrect s
    if k.c = 0 then .next (k.st.finish 0 0)
    else
      match k.st.rel k.r 0 with
      | none => .next (s.raiseError .depthZero)
      | some rrel =>
        afterCopy k.st (pull k.st.store .inc s.opX rrel 1 k.st.bus) fun t =>
          .next ((t.setRd (t.adv k.r 1) (t.span - 1)).finish 1 0)

/-- READ_N (R181). -/
def execReadN (cm : CopyMode) (s : State) : Host.Outcome State Fault Refusal :=
  prologue (.readN cm) s fun s =>
    let k := checkCorrect s
    let nEff := min s.opB.toNat k.c.toNat
    if nEff = 0 then .next (k.st.finish 0 0)
    else
      match k.st.rel k.r 0 with
      | none => .next (s.raiseError .depthZero)
      | some rrel =>
        afterCopy k.st (pull k.st.store cm s.opX rrel nEff k.st.bus) fun t =>
          .next ((t.setRd (t.adv k.r (BitVec.ofNat 16 nEff)) (t.span - nEff)).finish (BitVec.ofNat 16 nEff) 0)

/-- PEEK_AT (R182). -/
def execPeekAt (s : State) : Host.Outcome State Fault Refusal :=
  prologue .peekAt s fun s =>
    let k := checkCorrect s
    if k.c ≤ s.opA then .next (k.st.finish 0 0)
    else
      match k.st.rel k.r s.opA with
      | none => .next (s.raiseError .depthZero)
      | some rrel =>
        afterCopy k.st (pull k.st.store .inc s.opX rrel 1 k.st.bus) fun t => .next (t.finish 1 0)

/-- PEEK_AT_N (R183). -/
def execPeekAtN (cm : CopyMode) (s : State) : Host.Outcome State Fault Refusal :=
  prologue (.peekAtN cm) s fun s =>
    let k := checkCorrect s
    let nEff := min s.opB.toNat (k.c.toNat - s.opA.toNat)
    if k.c ≤ s.opA ∨ nEff = 0 then .next (k.st.finish 0 0)
    else
      match k.st.rel k.r s.opA with
      | none => .next (s.raiseError .depthZero)
      | some rrel =>
        afterCopy k.st (pull k.st.store cm s.opX rrel nEff k.st.bus) fun t =>
          .next (t.finish (BitVec.ofNat 16 nEff) 0)

end Sys2Proof.Machine
end

