-- ==== Sys2Proof/Machine/WritePath.lean ====
section
/-! DEFINITION. The write path (43_write_path.md R160 to R164): WRITE, WRITE_N and WSEL. -/

namespace Sys2Proof.Machine

open Sys2Proof

/-- WRITE (R160). -/
def execWrite (s : State) : Host.Outcome State Fault Refusal :=
  prologue .write s fun s =>
    if fullp s.depth s.rawCount && !s.ovw then .next (s.finish 0 0)
    else
      match s.rel s.wrIdx 0 with
      | none => .next (s.raiseError .depthZero)
      | some wrel =>
        afterCopy s (push s.store .inc s.opX wrel 1 0 s.bus) fun t =>
          .next ((t.setWr (t.adv t.wrIdx 1) (t.span + 1)).finish 1 0)

/-- What WSEL chooses (R162): the effective write cursor, the effective count, how many leading items to skip, and what SPAN
becomes when those items are written (10_state.md R33). -/
structure Selected where
  wEff : U16
  nEff : Nat
  skip : Nat
  span : Int
  deriving DecidableEq, Repr

/-- WSEL(n, WR_IDX, RD_IDX) (R162). -/
def wsel (s : State) (n : Nat) : Selected :=
  if !s.ovw then
    let k := min n (remain s.depth s.rawCount).toNat
    { wEff := s.wrIdx, nEff := k, skip := 0, span := s.span + k }
  else if s.depth.toNat ≤ n then
    { wEff := s.rdIdx, nEff := s.depth.toNat, skip := n - s.depth.toNat, span := s.depth.toNat }
  else { wEff := s.wrIdx, nEff := n, skip := 0, span := s.span + n }

/-- WRITE_N (R161). -/
def execWriteN (cm : CopyMode) (s : State) : Host.Outcome State Fault Refusal :=
  prologue (.writeN cm) s fun s =>
    let sel := wsel s s.opB.toNat
    if sel.nEff = 0 then .next (s.finish 0 0)
    else
      match s.rel sel.wEff 0 with
      | none => .next (s.raiseError .depthZero)
      | some wrel =>
        afterCopy s (push s.store cm s.opX wrel sel.nEff sel.skip s.bus) fun t =>
          .next ((t.setWr (t.adv sel.wEff (BitVec.ofNat 16 sel.nEff)) sel.span).finish (BitVec.ofNat 16 sel.nEff) 0)

end Sys2Proof.Machine
end

