-- ==== Sys2Proof/Machine/Dispatch.lean ====
section
/-! DEFINITION. One arm per constructor of Instr, each one direct call of its meaning. -/

namespace Sys2Proof.Machine

open Sys2Proof

def exec (i : Instr) (s : State) : Host.Outcome State Fault Refusal :=
  match i with
  | .configure ow => Sys2Proof.Machine.execConfigure ow s
  | .clear => Sys2Proof.Machine.execClear s
  | .setOverwritable ow => Sys2Proof.Machine.execSetOverwritable ow s
  | .write => Sys2Proof.Machine.execWrite s
  | .writeN cm => Sys2Proof.Machine.execWriteN cm s
  | .read => Sys2Proof.Machine.execRead s
  | .readN cm => Sys2Proof.Machine.execReadN cm s
  | .peekAt => Sys2Proof.Machine.execPeekAt s
  | .peekAtN cm => Sys2Proof.Machine.execPeekAtN cm s
  | .getLinearReadInfo => Sys2Proof.Machine.execGetLinearReadInfo s
  | .getLinearWriteInfo => Sys2Proof.Machine.execGetLinearWriteInfo s
  | .correctReadPointer => Sys2Proof.Machine.execCorrectReadPointer s
  | .count => Sys2Proof.Machine.execCount s
  | .empty => Sys2Proof.Machine.execEmpty s
  | .full => Sys2Proof.Machine.execFull s
  | .remaining => Sys2Proof.Machine.execRemaining s
  | .overflowed => Sys2Proof.Machine.execOverflowed s
  | .advanceWritePointer => Sys2Proof.Machine.execAdvanceWritePointer s
  | .advanceReadPointer => Sys2Proof.Machine.execAdvanceReadPointer s
  | .backwardWritePointer => Sys2Proof.Machine.execBackwardWritePointer s
  | .backwardReadPointer => Sys2Proof.Machine.execBackwardReadPointer s

end Sys2Proof.Machine
end

