-- ==== Sys2Proof/Machine/HostPort.lean ====
section
/-! DEFINITION. The host side: the port register windows (10_state.md R29, R30; 60_exceptions.md R314), other bus masters
(00_scope.md R12(c)) and the reset input (70_reset_and_hazards.md R330, R331). -/

namespace Sys2Proof.Machine

open Sys2Proof

/-- The numeric code of STATUS.CODE (60_exceptions.md R301). -/
def Code.toNat : Code → Nat
  | .ok => 0
  | .illegal => 1
  | .unconfigured => 2
  | .capability => 3
  | .align => 4
  | .contract => 5
  | .depthZero => 6

namespace PortState

/-- STATUS.BUSY: 1 exactly when the port holds a pending command (10_state.md R32; log 12). -/
def busy (p : PortState) : Bool := p.pending.isSome

/-- The STATUS register: CODE in [2:0], BUSY in [8], the other bits 0 (10_state.md R29). -/
def status (p : PortState) : Word := BitVec.ofNat 32 (p.code.toNat + 2 ^ 8 * p.busy.toNat)

/-- What a host read of the register at word offset k (byte offset 4k) returns (10_state.md R29). -/
def readReg (p : PortState) : Nat → Word
  | 1 => p.argA.setWidth 32
  | 2 => p.argB.setWidth 32
  | 3 => p.argAddr
  | 4 => p.status
  | 5 => p.resVal.setWidth 32
  | 6 => p.resPtr
  | _ => 0

/-- What a host write of the register at word offset k does (10_state.md R29, R30): CMD issues, the operand registers take
the value, all four only while BUSY = 0; writes of the other registers are ignored. -/
def writeReg (v : Word) (k : Nat) (p : PortState) : PortState :=
  if p.busy then p
  else
    match k with
    | 0 => { p with pending := some v }
    | 1 => { p with argA := v.setWidth 16 }
    | 2 => { p with argB := v.setWidth 16 }
    | 3 => { p with argAddr := v }
    | _ => p

end PortState

/-- The bytes one port's window takes (10_state.md R29). -/
def windowBytes : Nat := 0x20

/-- Where a host access of `width` bytes at a platform address lands. -/
inductive HostTarget where
  /-- The register at word offset k of port p's window. -/
  | reg (p k : Nat)
  /-- It touches the windows and is not a 32-bit aligned access: refused (60_exceptions.md R314). -/
  | refused
  /-- It touches no window. -/
  | outside
  deriving DecidableEq, Repr

/-- Decode a host access (10_state.md R29, 60_exceptions.md R314; log 15). -/
def hostTarget (P : Params) (addr width : Nat) : HostTarget :=
  if addr + width ≤ P.portBase ∨ P.portBase + windowBytes * P.nports ≤ addr then .outside
  else if width = 4 ∧ addr % 4 = 0 ∧ P.portBase ≤ addr then
    .reg ((addr - P.portBase) / windowBytes) ((addr - P.portBase) % windowBytes / 4)
  else .refused

namespace State

/-- A host write (10_state.md R29, R30). -/
def hostWrite (addr width : Nat) (v : Word) (s : State) : State :=
  match hostTarget s.params addr width with
  | .reg p k => { s with ports := s.ports.modify p (PortState.writeReg v k), resp := .written }
  | .refused => { s with resp := .busError }
  | .outside => { s with resp := .notSelected }

/-- A host read (10_state.md R29): the value is the bus's answer, and nothing of the block changes. -/
def hostRead (addr width : Nat) (s : State) : State :=
  match hostTarget s.params addr width with
  | .reg p k => { s with resp := .data ((s.ports.getD p PortState.reset).readReg k) }
  | .refused => { s with resp := .busError }
  | .outside => { s with resp := .notSelected }

/-- Another bus master writes a byte of memory (00_scope.md R12(c), 20_memory.md R68). -/
def masterWrite (addr : Nat) (b : Byte) (s : State) : State :=
  { s with bus := { s.bus with mem := masterStore s.params (addr, b) s.bus.mem } }

/-- The reset input (70_reset_and_hazards.md R330, R331): every register of the block at its reset value, pending commands
discarded, the ghost state cleared; memory, the devices, the parameters and what is still to come are not the block's. -/
def applyReset (s : State) : State :=
  { State.resetWith s.params with bus := s.bus, agenda := s.agenda, resp := s.resp }

end State

end Sys2Proof.Machine
end

