-- ==== Sys2Proof/Machine/Engine.lean ====
section
/-! DEFINITION. The command engine (10_state.md R32): performing a port's pending command, what each event does, and which
command is performed when no event is left. -/

namespace Sys2Proof.Machine

open Sys2Proof

/-- Perform a command word on the port `cur`: an illegal word completes with ILLEGAL (60_exceptions.md R304, its first check),
a legal one by its meaning. -/
def runWord (w : Word) (s : State) : Host.Outcome State Fault Refusal :=
  match decode w with
  | .illegal _ => .next (s.raiseError .illegal)
  | .instr i => exec i s

/-- Perform port p's pending command as one atomic step (10_state.md R32). `none` where there is no performance step: the port
holds no command, or the command is stuck on an access that is not admitted (20_memory.md R54; log 6). -/
def perform (p : Nat) (s : State) : Option (Host.Outcome State Fault Refusal) :=
  match (s.ports[p]?).bind PortState.pending with
  | none => none
  | some w =>
    match runWord w { s with cur := p } with
    | .fault .notAdmitted => none
    | o => some o

/-- What one event does (00_scope.md R12; log 5). A grant of a port without a performance step does nothing. -/
def handle (e : Event) (s : State) : Host.Outcome State Fault Refusal :=
  match e with
  | .grant p => (perform p s).getD (.next s)
  | .hostWrite addr width v => .next (s.hostWrite addr width v)
  | .hostRead addr width => .next (s.hostRead addr width)
  | .masterWrite addr b => .next (s.masterWrite addr b)
  | .reset => .next s.applyReset

/-- Perform the first of the listed ports that has a performance step; with none the block is idle (60_exceptions.md R317). -/
def firstPerform : List Nat → State → Host.Outcome State Fault Refusal
  | [], s => .next s
  | p :: ps, s => (perform p s).getD (firstPerform ps s)

/-- With no event left, the pending commands are performed from port 0 up (DESIGN CHOICE, log 5: any order is weakly fair here,
since no new command is issued any more). -/
def drain (s : State) : Host.Outcome State Fault Refusal := firstPerform (List.range s.ports.length) s

/-- The port on which `State.withFetchWord` places a command: the first with the DMA capability, which may issue every command
(60_exceptions.md R306), or port 0 (log 10). -/
def fetchPort (P : Params) : Nat := if P.dmaCap.contains true then P.dmaCap.idxOf true else 0

/-- A table word as a command word: one 32-bit word (30_encoding.md R80), the bits above `nbits` 0. -/
def tableWord (nbits w : Nat) : Word := BitVec.ofNat 32 (w % 2 ^ nbits)

end Sys2Proof.Machine
end

