-- ==== Sys2Proof/Machine/Step.lean ====
section
/-! DEFINITION. One step of the machine: the next event, or, with none left, the next pending command (10_state.md R32). The
three outcomes of exec are next, fault and refusal; a step itself always answers a next state. -/

namespace Sys2Proof.Machine

open Sys2Proof

/-- One atomic step. -/
def step (s : State) : Host.Outcome State Fault Refusal :=
  match s.agenda with
  | e :: rest => handle e { s with agenda := rest }
  | [] => drain s

/-- s with a command word pending on a port and a grant of that port as the next event, so that the very next step performs
it (log 10). -/
def State.withFetchWord (s : State) (nbits w : Nat) : State :=
  { s with
    ports := s.ports.modify (fetchPort s.params) fun p => { p with pending := some (tableWord nbits w) }
    agenda := .grant (fetchPort s.params) :: s.agenda }

end Sys2Proof.Machine
end

