-- ==== Sys2Proof/Machine/Assembler.lean ====
section
/-! DEFINITION. The assembler (30_encoding.md R88, R89): the host writes a statement assembles to. -/

namespace Sys2Proof.Machine

open Sys2Proof

/-- The copy mode a statement's `.CONST` names (R88). -/
def Stmt.mode (st : Stmt) : CopyMode := copyModeOf st.const

/-- The operation a statement's mnemonic names; PEEK and PEEK_N are PEEK_AT and PEEK_AT_N with offset 0 (R89). -/
def Stmt.instr (st : Stmt) : Instr :=
  match st.op with
  | .configure => .configure (st.ow.getD false)
  | .clear => .clear
  | .setOverwritable => .setOverwritable (st.ow.getD false)
  | .write => .write
  | .writeN => .writeN (Stmt.mode st)
  | .read => .read
  | .readN => .readN (Stmt.mode st)
  | .peekAt => .peekAt
  | .peekAtN => .peekAtN (Stmt.mode st)
  | .getLinearReadInfo => .getLinearReadInfo
  | .getLinearWriteInfo => .getLinearWriteInfo
  | .correctReadPointer => .correctReadPointer
  | .count => .count
  | .empty => .empty
  | .full => .full
  | .remaining => .remaining
  | .overflowed => .overflowed
  | .advanceWritePointer => .advanceWritePointer
  | .advanceReadPointer => .advanceReadPointer
  | .backwardWritePointer => .backwardWritePointer
  | .backwardReadPointer => .backwardReadPointer
  | .peek => .peekAt
  | .peekN => .peekAtN (Stmt.mode st)

/-- The value of the first operand given, 0 if none is (R88: an omitted operand is 0). -/
def firstGiven : List (Option Nat) → Nat
  | [] => 0
  | some v :: _ => v
  | none :: vs => firstGiven vs

/-- The host writes of a statement's fields, in the order of R88: ARG_A, ARG_B, ARG_ADDR, each only where the command uses it,
then CMD. -/
def stmtWrites (P : Params) (st : Stmt) : List Event :=
  let i := Stmt.instr st
  let reg (k : Nat) (v : Word) : Event := .hostWrite (P.portBase + windowBytes * st.port + 4 * k) 4 v
  (if i.usesA then [reg 1 (BitVec.ofNat 32 (firstGiven [st.depth, st.off]))] else []) ++
  (if i.usesB then [reg 2 (BitVec.ofNat 32 (firstGiven [st.isize, st.n]))] else []) ++
  (if i.usesX then [reg 3 (BitVec.ofNat 32 (firstGiven [st.base, st.src, st.dst]))] else []) ++
  [reg 0 (encode i)]

/-- The host writes a statement assembles to (R88). DESIGN CHOICE (log 22): a statement that is not well formed assembles to none;
the spec does not say what becomes of it. -/
def assemble (P : Params) (st : Stmt) : List Event := if st.wf P then stmtWrites P st else []

end Sys2Proof.Machine
end

