-- ==== Sys2Proof/Safety.lean ====
section
/-! DEFINITION. The terms claims are made in: when the prologue lets a command pass, which accesses a command makes and when
the platform admits them, the invariant of every step, and a run without a ghost fault. -/

namespace Sys2Proof.Machine

open Sys2Proof

/-! ## The prologue -/

/-- Command i passes every check of PROLOGUE (60_exceptions.md R304) on the port `cur`. -/
abbrev Passes (i : Instr) (s : State) : Prop :=
  s.cur < s.ports.length ∧ (i.manual = true → s.dmaCapable = true) ∧
    (i.isConfigure = true ∨ s.configured = true) ∧ (i.copyMode = .const → s.misaligned = false)

/-! ## The accesses of a command (20_memory.md R55 to R59) -/

/-- An access without its bytes: read or write, the address and the width (20_memory.md R51). -/
structure Shape where
  write : Bool
  addr : Nat
  width : Nat
  deriving DecidableEq, Repr

/-- The shape of a recorded access. -/
def Access.shape : Access → Shape
  | .rd a bytes => { write := false, addr := a, width := bytes.length }
  | .wr a bytes => { write := true, addr := a, width := bytes.length }

/-- One call of a copy procedure, with its arguments (20_memory.md R55 to R58). -/
inductive CopyCall where
  | push (cm : CopyMode) (xa rel0 n skip : Nat)
  | pull (cm : CopyMode) (xa rel0 n : Nat)
  deriving DecidableEq, Repr

/-- How many 4-byte words a stream of `bytes` bytes takes: ceil(bytes / 4) (20_memory.md R59). -/
def streamWords (bytes : Nat) : Nat := (bytes + 3) / 4

/-- The accesses a copy makes, in order (20_memory.md R55 to R59). -/
def CopyCall.shapes (g : Store) : CopyCall → List Shape
  | .push .inc xa rel0 n skip =>
    (List.range (n * g.isize)).flatMap fun t =>
      [⟨false, (xa + skip * g.isize + t) % g.params.space, 1⟩, ⟨true, g.ba rel0 t, 1⟩]
  | .push .const xa rel0 n skip =>
    let S := skip * g.isize
    let T := S + n * g.isize
    (List.range (streamWords T)).flatMap fun i =>
      ⟨false, xa % g.params.space, 4⟩ ::
        ((List.range 4).filter fun j => S ≤ 4 * i + j ∧ 4 * i + j < T).map fun j => ⟨true, g.ba rel0 (4 * i + j - S), 1⟩
  | .pull .inc xa rel0 n =>
    (List.range (n * g.isize)).flatMap fun t =>
      [⟨false, g.ba rel0 t, 1⟩, ⟨true, (xa + t) % g.params.space, 1⟩]
  | .pull .const xa rel0 n =>
    let L := n * g.isize
    (List.range (streamWords L)).flatMap fun i =>
      (((List.range 4).filter fun j => 4 * i + j < L).map fun j => ⟨false, g.ba rel0 (4 * i + j), 1⟩) ++
        [⟨true, xa % g.params.space, 4⟩]

/-- The number of items the read side can give from offset o, at most n: after the correction the count is at most DEPTH
(42_overflow.md R141, 44_read_path.md R181, R183). -/
def itemsFrom (s : State) (o n : Nat) : Nat := min n ((cnt s.depth s.rawCount).toNat - o)

/-- The read cursor after CHECK_CORRECT (42_overflow.md R141). -/
def correctedRd (s : State) : U16 :=
  if ovfp s.depth s.rawCount then s.bwd s.wrIdx s.depth else s.rdIdx

/-- The copy a command calls once its prologue has passed; `none` where its rule calls none (files 43 and 44, R63). -/
def copyCall (i : Instr) (s : State) : Option CopyCall :=
  match i with
  | .write =>
    if fullp s.depth s.rawCount && !s.ovw then none
    else (s.rel s.wrIdx 0).map fun wrel => .push .inc s.opX wrel 1 0
  | .writeN cm =>
    let sel := wsel s s.opB.toNat
    if sel.nEff = 0 then none else (s.rel sel.wEff 0).map fun wrel => .push cm s.opX wrel sel.nEff sel.skip
  | .read =>
    if itemsFrom s 0 1 = 0 then none
    else (s.rel (correctedRd s) 0).map fun rrel => .pull .inc s.opX rrel 1
  | .readN cm =>
    let n := itemsFrom s 0 s.opB.toNat
    if n = 0 then none else (s.rel (correctedRd s) 0).map fun rrel => .pull cm s.opX rrel n
  | .peekAt =>
    if itemsFrom s s.opA.toNat 1 = 0 then none
    else (s.rel (correctedRd s) s.opA).map fun rrel => .pull .inc s.opX rrel 1
  | .peekAtN cm =>
    let n := itemsFrom s s.opA.toNat s.opB.toNat
    if n = 0 then none else (s.rel (correctedRd s) s.opA).map fun rrel => .pull cm s.opX rrel n
  | .configure _ | .clear | .setOverwritable _ | .getLinearReadInfo | .getLinearWriteInfo | .correctReadPointer
  | .count | .empty | .full | .remaining | .overflowed
  | .advanceWritePointer | .advanceReadPointer | .backwardWritePointer | .backwardReadPointer => none

/-- The accesses command i makes in state s, in order, once its prologue has passed (20_memory.md R59). -/
def commandShapes (i : Instr) (s : State) : List Shape := ((copyCall i s).map (CopyCall.shapes s.store)).getD []

/-- The platform admits an access: every one of its bytes is readable or writable (20_memory.md R54). -/
def Shape.admitted (P : Params) (x : Shape) : Bool :=
  (laneAddrs P x.addr x.width).all (if x.write then writable P else readable P)

/-- The platform admits every access command i makes in state s (20_memory.md R54, 70_reset_and_hazards.md R340). -/
abbrev Admitted (i : Instr) (s : State) : Prop :=
  ∀ x ∈ commandShapes i s, x.admitted s.params = true

/-- The addresses command i stores to in state s. -/
def storedAddrs (i : Instr) (s : State) : List Nat :=
  (commandShapes i s).flatMap fun x => if x.write then laneAddrs s.params x.addr x.width else []

/-- The addresses other masters are still to write in the middle of the block's copies (20_memory.md R68), modulo 2^ADDR_W
(DESIGN CHOICE, log 23). -/
def racedAddrs (s : State) : List Nat := s.bus.race.flatten.map fun c => c.1 % s.params.space

/-! ## The invariant -/

/-- What every step keeps: the parameters are in their ranges (00_scope.md R5), there is one set of registers a port
(10_state.md R29), DEPTH is at most 32767 (R23), MAX_INDEX and UNUSED are the function of DEPTH of R26, addresses held in
registers and in memory are below 2^ADDR_W (R20, R29; 20_memory.md R52), memory is canonical, and an unconfigured block
holds the reset configuration (70_reset_and_hazards.md R332). -/
abbrev Inv (s : State) : Prop :=
  s.params.wf ∧ s.ports.length = s.params.nports ∧ s.cur < s.params.nports ∧
  s.depth.toNat ≤ Config.depthMax ∧ s.maxIndex = maxIndexOf s.depth ∧ s.unused = unusedOf s.depth ∧
  s.bufBase.toNat < s.params.space ∧ (∀ p ∈ s.ports, p.resPtr.toNat < s.params.space) ∧
  Memory.wf s.bus.mem ∧ (∀ c ∈ s.bus.mem, c.1 < s.params.space) ∧
  (s.configured = false → s.depth = 0 ∧ s.itemSize = 0 ∧ s.bufBase = 0 ∧ s.ovw = false ∧ s.wrIdx = 0 ∧ s.rdIdx = 0)

/-- As long as no ghost fault is recorded, the contract holds and RAWCNT(WR_IDX, RD_IDX) = SPAN (10_state.md R34,
41_index_arithmetic.md R128). -/
abbrev Tracked (s : State) : Prop :=
  s.ghostFault = false → s.contract = true ∧ (s.rawCount.toNat : Int) = s.span

/-! ## Host moves used in claims about several commands -/

/-- The issuing port's operand registers after the host has written them (10_state.md R29). -/
def State.withArgs (s : State) (a b : U16) (x : Word) : State :=
  { s with ports := s.ports.modify s.cur fun p => { p with argA := a, argB := b, argAddr := x } }

end Sys2Proof.Machine
end

