-- ==== Sys2Proof/Certificates/Slice0/Obligations.lean ====
section
/-! DEFINITION. The statements for the provers, in the order of OBLIGATIONS.json. -/

open Sys2Proof Sys2Proof.Machine

/-! ## Encoding -/

/-- A few words written out from the opcode map, and a few illegal ones (30_encoding.md R84, R86; 95_test_vectors.md L2.9). -/
def Obligations.SpecWordsDecode : Prop :=
  decode 0x00000201 = .instr (.configure true) ∧ decode 0x00000002 = .instr .clear ∧
  decode 0x00000105 = .instr (.writeN .const) ∧ decode 0x00000009 = .instr (.readN .inc) ∧
  decode 0x0000000D = .instr .getLinearWriteInfo ∧ decode 0x0000000E = .instr .correctReadPointer ∧
  decode 0x00000014 = .instr .overflowed ∧ decode 0x0000001A = .instr .backwardWritePointer ∧
  decode 0x00000000 = .illegal .reservedOpcode ∧ decode 0x00000104 = .illegal .copyModeNotAllowed ∧
  decode 0x00000205 = .illegal .overwritableNotAllowed ∧ decode 0x00000410 = .illegal .reservedBits

/-- Decoding and encoding are inverse, in both directions, over all commands and all 2^32 words. -/
def Obligations.DecodeEncodeAgree : Prop :=
  (∀ i : Instr, decode (encode i) = .instr i) ∧ (∀ (w : Word) (i : Instr), decode w = .instr i → w = encode i)

/-- 30_encoding.md R85: exactly the 26 listed words are legal, for 21 operations, and a word spells a row exactly by the row's
mask and match, so no word spells two. -/
def Obligations.ExactlyTheLegalWordsDecode : Prop :=
  (∀ w : Word, (∃ i, decode w = .instr i) ↔ w ∈ legalWords) ∧
  legalWords.length = 26 ∧ legalWords.Nodup ∧ (legalWords.map fun w => w.toNat % 32).dedup.length = 21 ∧
  (∀ (w : Word) (i : Instr), decode w = .instr i → w &&& i.rowMask = BitVec.ofNat 32 i.opc) ∧
  (∀ (w : Word) (i : Instr), w &&& i.rowMask = BitVec.ofNat 32 i.opc → ∃ j : Instr, j.opc = i.opc ∧ decode w = .instr j) ∧
  (∀ (w : Word) (i j : Instr), w &&& i.rowMask = BitVec.ofNat 32 i.opc → w &&& j.rowMask = BitVec.ofNat 32 j.opc → i.opc = j.opc)

/-- 30_encoding.md R83 and R86: a word is legal exactly under R83's four conditions; any other completes with ILLEGAL and has
no other effect, in every state. -/
def Obligations.IllegalWordsComplete : Prop :=
  ∀ w : Word,
    let opc := w.toNat % 32
    let legal :=
      (w.toNat / 32 % 8 = 0 ∧ w.toNat / 1024 = 0) ∧
      opc ∈ [0x01, 0x02, 0x03, 0x04, 0x05, 0x08, 0x09, 0x0A, 0x0B, 0x0C, 0x0D, 0x0E, 0x10, 0x11, 0x12, 0x13, 0x14,
        0x18, 0x19, 0x1A, 0x1B] ∧
      (w.toNat / 256 % 2 = 0 ∨ opc ∈ [0x05, 0x09, 0x0B]) ∧
      (w.toNat / 512 % 2 = 0 ∨ opc ∈ [0x01, 0x03])
    (legal ↔ ∃ i, decode w = .instr i) ∧
    (¬ legal → ∀ s : State, runWord w s = .next (s.complete .illegal 0 0)) ∧
    (opc ∈ [0x00, 0x06, 0x07, 0x0F, 0x15, 0x16, 0x17, 0x1C, 0x1D, 0x1E, 0x1F] →
      ∀ s : State, runWord w s = .next (s.complete .illegal 0 0))

/-! ## The engine and the prologue -/

/-- A grant of a port whose pending word decodes to i is exec of i on that port, the event taken; a command without a
performance step stays pending (10_state.md R32; log 5, log 6). A granted illegal word completes with ILLEGAL and has no other
effect (30_encoding.md R83, R86). The same of the command `withFetchWord` places (log 10). -/
def Obligations.StepPerformsGrantedCommand : Prop :=
  (∀ (s : State) (p : Nat) (rest : List Event) (port : PortState) (w : Word),
    s.agenda = .grant p :: rest → s.ports[p]? = some port → port.pending = some w →
      (∀ i, decode w = .instr i →
        (∀ t, exec i { s with agenda := rest, cur := p } = .next t → step s = .next t) ∧
        (exec i { s with agenda := rest, cur := p } = .fault .notAdmitted → step s = .next { s with agenda := rest })) ∧
      (∀ why, decode w = .illegal why →
        step s = .next (({ s with agenda := rest, cur := p } : State).complete .illegal 0 0))) ∧
  (∀ (s : State) (nbits w : Nat) (i : Instr) (t : State),
    s.ports.length = s.params.nports → 1 ≤ s.params.nports → decodeTableWord nbits w = some i →
    exec i { s.withFetchWord nbits w with agenda := s.agenda, cur := fetchPort s.params } = .next t →
      step (s.withFetchWord nbits w) = .next t)

/-- 20_memory.md R54: a command has no performance step exactly when the platform does not admit one of its accesses; then a
grant changes no state but the taken event, and the port stays BUSY. -/
def Obligations.StuckExactlyWhenNotAdmitted : Prop :=
  (∀ (i : Instr) (s : State), exec i s = .fault .notAdmitted ↔ Passes i s ∧ ¬ Admitted i s) ∧
  (∀ (s : State) (p : Nat) (rest : List Event) (port : PortState) (i : Instr),
    s.agenda = .grant p :: rest → s.ports[p]? = some port → port.pending = some (encode i) →
    Passes i { s with agenda := rest, cur := p } → ¬ Admitted i { s with agenda := rest, cur := p } →
      step s = .next { s with agenda := rest } ∧ port.busy = true)

/-- 60_exceptions.md R300, R301: a command that passes the prologue and whose accesses are admitted completes, with code OK
except WRITE at depth 0 on an overwritable FIFO (DEPTH_ZERO) and GET_LINEAR_WRITE_INFO with n > 2·DEPTH on one (CONTRACT). -/
def Obligations.PassedCommandsComplete : Prop :=
  ∀ (i : Instr) (s : State), Passes i s → Admitted i s →
    ∃ t, exec i s = .next t ∧ t.curPort.busy = false ∧
      t.curPort.code =
        (if i = .write ∧ s.depth = 0 ∧ s.ovw = true then .depthZero
        else if i = .getLinearWriteInfo ∧ s.ovw = true ∧ 2 * s.depth.toNat < s.opB.toNat then .contract
        else .ok)

/-- 60_exceptions.md R304: the checks of the prologue, in their order, on the port `cur`. -/
def Obligations.PrologueChecksInOrder : Prop :=
  ∀ (w : Word) (s : State), s.cur < s.ports.length →
    (∀ why, decode w = .illegal why → runWord w s = .next (s.complete .illegal 0 0)) ∧
    ∀ i, decode w = .instr i →
      (w.toNat % 32 ∈ [0x18, 0x19, 0x1A, 0x1B] → s.params.dmaCap.getD s.cur false = false →
        runWord w s = .next (s.complete .capability 0 0)) ∧
      ((w.toNat % 32 ∈ [0x18, 0x19, 0x1A, 0x1B] → s.params.dmaCap.getD s.cur false = true) →
        (w.toNat % 32 ≠ 0x01 → s.configured = false → runWord w s = .next (s.complete .unconfigured 0 0)) ∧
        ((w.toNat % 32 = 0x01 ∨ s.configured = true) →
          (w.toNat / 256 % 2 = 1 → s.curPort.argAddr.toNat % 4 ≠ 0 → runWord w s = .next (s.complete .align 0 0)) ∧
          ((w.toNat / 256 % 2 = 1 → s.curPort.argAddr.toNat % 4 = 0) → Passes i s ∧ runWord w s = exec i s)))

/-- 60_exceptions.md R303: a command that ends with an error code writes the code, RES_VAL = 0 and RES_PTR = 0, completes, and
changes nothing else: no shared register, no memory, no ghost state. -/
def Obligations.RefusedCommandIsPrecise : Prop :=
  ∀ (w : Word) (s t : State), runWord w s = .next t → t.curPort.code ≠ .ok → s.cur < s.ports.length →
    t = { s with ports := s.ports.modify s.cur fun p =>
            { p with code := t.curPort.code, resVal := 0, resPtr := 0, pending := none } }

/-- 10_state.md R31: a completed command writes CODE, RES_VAL and RES_PTR of its port (0 and 0 on an error) and clears its
pending command; the operand registers and every other port's registers stay. -/
def Obligations.CompletionWritesOwnPortOnly : Prop :=
  ∀ (w : Word) (s t : State), runWord w s = .next t → s.cur < s.ports.length →
    t.ports.length = s.ports.length ∧ (∀ q, q ≠ s.cur → t.ports[q]? = s.ports[q]?) ∧
    ∃ (c : Code) (v : U16) (x : Word),
      t.ports[s.cur]? = some { s.curPort with code := c, resVal := v, resPtr := x, pending := none } ∧
      (c ≠ .ok → v = 0 ∧ x = 0)

/-- 60_exceptions.md R306: the capability is no register, nothing writes it; a port with it may issue every command, a port
without it every command but the four manual pointer commands, which complete with CAPABILITY there. -/
def Obligations.CapabilityIsFixedAndGuards : Prop :=
  (∀ s t : State, step s = .next t → t.params = s.params) ∧
  (∀ (i : Instr) (s t : State), exec i s = .next t → s.cur < s.ports.length →
    (t.curPort.code = .capability ↔
      i ∈ [.advanceWritePointer, .advanceReadPointer, .backwardWritePointer, .backwardReadPointer] ∧
        s.dmaCapable = false))

/-! ## Configuration -/

/-- 40_configuration.md R100: CONFIGURE accepted rewrites every shared register; rejected (depth above 32767) it writes only
its result registers; while CONFIGURED = 0 no other command is accepted. -/
def Obligations.ConfigureResult : Prop :=
  (∀ (ow : Bool) (s : State), Passes (.configure ow) s →
    (s.opA.toNat ≤ 32767 →
      exec (.configure ow) s = .next (({ s with
        bufBase := BitVec.ofNat 32 s.opX
        depth := s.opA
        itemSize := s.opB
        ovw := ow
        maxIndex := 2 * s.opA - 1
        unused := 0xFFFF - (2 * s.opA - 1)
        wrIdx := 0
        rdIdx := 0
        configured := true
        span := 0 } : State).complete .ok 1 0)) ∧
    (32767 < s.opA.toNat → exec (.configure ow) s = .next (s.recordGhost.complete .ok 0 0))) ∧
  (∀ (i : Instr) (s : State), (∀ ow, i ≠ .configure ow) → s.configured = false → s.cur < s.ports.length →
    ∃ c, c ≠ Code.ok ∧ exec i s = .next (s.complete c 0 0))

/-- 40_configuration.md R101, R102: CLEAR empties the FIFO and recomputes the index constants; SET_OVERWRITABLE writes OVW. -/
def Obligations.ClearAndSetOverwritableResult : Prop :=
  (∀ s : State, Passes .clear s →
    exec .clear s = .next (({ s with
      wrIdx := 0
      rdIdx := 0
      maxIndex := 2 * s.depth - 1
      unused := 0xFFFF - (2 * s.depth - 1)
      span := 0 } : State).complete .ok 1 0)) ∧
  (∀ (ow : Bool) (s : State), Passes (.setOverwritable ow) s →
    exec (.setOverwritable ow) s = .next (({ s with ovw := ow } : State).recordGhost.complete .ok 1 0))

/-- 40_configuration.md R105, and the "written by" column of 10_state.md R20 for the other registers: which commands can
change which shared register; no host access and no other master changes one. -/
def Obligations.OnlyListedCommandsWriteSharedRegisters : Prop :=
  (∀ (i : Instr) (s t : State), exec i s = .next t →
    ((∀ ow, i ≠ .configure ow) →
      t.bufBase = s.bufBase ∧ t.depth = s.depth ∧ t.itemSize = s.itemSize ∧ t.configured = s.configured ∧
      (i ≠ .clear → t.maxIndex = s.maxIndex ∧ t.unused = s.unused) ∧
      ((∀ ow, i ≠ .setOverwritable ow) → t.ovw = s.ovw) ∧
      (i ∉ [.clear, .write, .writeN .inc, .writeN .const, .advanceWritePointer, .backwardWritePointer] →
        t.wrIdx = s.wrIdx) ∧
      (i ∉ [.clear, .read, .readN .inc, .readN .const, .peekAt, .peekAtN .inc, .peekAtN .const, .getLinearReadInfo,
          .correctReadPointer, .advanceReadPointer, .backwardReadPointer] → t.rdIdx = s.rdIdx)) ∧
    t.agenda = s.agenda ∧ t.resp = s.resp ∧ t.cur = s.cur ∧ t.params = s.params) ∧
  (∀ (e : Event) (s t : State), (∀ p, e ≠ .grant p) → e ≠ .reset → handle e s = .next t →
    t.configured = s.configured ∧ t.bufBase = s.bufBase ∧ t.depth = s.depth ∧ t.itemSize = s.itemSize ∧ t.ovw = s.ovw ∧
    t.maxIndex = s.maxIndex ∧ t.unused = s.unused ∧ t.wrIdx = s.wrIdx ∧ t.rdIdx = s.rdIdx)

/-! ## Index arithmetic -/

/-- 41_index_arithmetic.md R125: the jump by the unused index space is a step of one extended cycle. -/
def Obligations.CompensationLaw : Prop :=
  ∀ d x : U16, 1 ≤ d.toNat → d.toNat ≤ 32767 →
    (unusedOf d).toNat = 2 ^ 16 - 2 * d.toNat ∧
    ((x + unusedOf d).toNat : Int) = ((x.toNat : Int) - 2 * d.toNat) % 2 ^ 16 ∧
    ((x - unusedOf d).toNat : Int) = ((x.toNat : Int) + 2 * d.toNat) % 2 ^ 16

/-- 41_index_arithmetic.md R126, with the example that shows the bound tight. -/
def Obligations.AdvanceLaw : Prop :=
  (∀ d p o : U16, 1 ≤ d.toNat → d.toNat ≤ 32767 → p.toNat < 2 * d.toNat → o.toNat ≤ 2 * d.toNat →
    (adv (maxIndexOf d) (unusedOf d) p o).toNat = (p.toNat + o.toNat) % (2 * d.toNat) ∧
    (adv (maxIndexOf d) (unusedOf d) p o).toNat < 2 * d.toNat) ∧
  adv (maxIndexOf 4) (unusedOf 4) 7 9 = 8

/-- 41_index_arithmetic.md R127, with the example that shows the bound tight. -/
def Obligations.BackwardLaw : Prop :=
  (∀ d p o : U16, 1 ≤ d.toNat → d.toNat ≤ 32767 → p.toNat < 2 * d.toNat → o.toNat ≤ 2 * d.toNat →
    ((bwd (maxIndexOf d) (unusedOf d) p o).toNat : Int) = ((p.toNat : Int) - o.toNat) % (2 * d.toNat) ∧
    (bwd (maxIndexOf d) (unusedOf d) p o).toNat < 2 * d.toNat) ∧
  bwd (maxIndexOf 4) (unusedOf 4) 0 9 = 0xFFFF

/-- 41_index_arithmetic.md R128, its first sentence: the raw count is the distance of the cursors modulo one extended cycle. -/
def Obligations.CountLaw : Prop :=
  ∀ d w r : U16, 1 ≤ d.toNat → d.toNat ≤ 32767 → w.toNat < 2 * d.toNat → r.toNat < 2 * d.toNat →
    ((rawcnt (unusedOf d) w r).toNat : Int) = ((w.toNat : Int) - r.toNat) % (2 * d.toNat)

/-- 41_index_arithmetic.md R129: REL is the slot; two cursors are on one slot exactly when they differ by a multiple of DEPTH,
so a raw count of 0 or of DEPTH both put the write slot on the read slot. -/
def Obligations.RelativeLaw : Prop :=
  ∀ d : U16, 1 ≤ d.toNat → d.toNat ≤ 32767 →
    (∀ p o : U16, p.toNat < 2 * d.toNat → o.toNat ≤ 2 * d.toNat →
      rel d (maxIndexOf d) (unusedOf d) p o = some ((p.toNat + o.toNat) % d.toNat)) ∧
    (∀ w r : U16, w.toNat < 2 * d.toNat → r.toNat < 2 * d.toNat →
      (rel d (maxIndexOf d) (unusedOf d) w 0 = rel d (maxIndexOf d) (unusedOf d) r 0 ↔
        ((w.toNat : Int) - r.toNat) % d.toNat = 0) ∧
      ((rawcnt (unusedOf d) w r = 0 ∨ rawcnt (unusedOf d) w r = d) →
        rel d (maxIndexOf d) (unusedOf d) w 0 = rel d (maxIndexOf d) (unusedOf d) r 0))

/-! ## Overflow -/

/-- 42_overflow.md R142: CORRECT_READ_POINTER is unconditional, and writes RD_IDX (and SPAN) only. -/
def Obligations.CorrectReadPointerResult : Prop :=
  ∀ s : State, Passes .correctReadPointer s →
    exec .correctReadPointer s = .next (({ s with
      rdIdx := s.bwd s.wrIdx s.depth
      span := s.depth.toNat } : State).recordGhost.complete .ok 1 0)

/-- 42_overflow.md R143 (a), R145 and the source's overflow-recovery property (95_test_vectors.md L1.2): a DMA producer that
advances an empty FIFO by DEPTH + m, 0 < m < DEPTH, leaves an overflow without a ghost fault; one correction leaves exactly
DEPTH items, the last DEPTH written, and no overflow. -/
def Obligations.OverflowRecovery : Prop :=
  ∀ (s : State) (m : Nat), Inv s → Tracked s → s.ghostFault = false → s.wrIdx = s.rdIdx → 0 < m → m < s.depth.toNat →
    Passes .advanceWritePointer s → s.opB.toNat = s.depth.toNat + m →
    ∃ t, exec .advanceWritePointer s = .next t ∧ t.ghostFault = false ∧ t.rawCount.toNat = s.depth.toNat + m ∧
      ovfp t.depth t.rawCount = true ∧ cnt t.depth t.rawCount = s.depth ∧
      (checkCorrect t).st.rdIdx.toNat = (s.wrIdx.toNat + m) % (2 * s.depth.toNat) ∧
      (checkCorrect t).st.rawCount = s.depth ∧
      ovfp (checkCorrect t).st.depth (checkCorrect t).st.rawCount = false

/-! ## Write path -/

/-- 43_write_path.md R160: WRITE on a full FIFO that is not overwritable returns 0; at depth 0 on an overwritable one it raises
DEPTH_ZERO; otherwise it stores one item at the write slot and advances WR_IDX by one. -/
def Obligations.WriteResult : Prop :=
  ∀ s : State, Passes .write s →
    (s.depth ≤ s.rawCount → s.ovw = false → exec .write s = .next (s.recordGhost.complete .ok 0 0)) ∧
    (s.depth = 0 → s.ovw = true → exec .write s = .next (s.complete .depthZero 0 0)) ∧
    (s.depth ≠ 0 → (s.rawCount < s.depth ∨ s.ovw = true) → Admitted .write s →
      ∃ b, push s.store .inc s.opX ((s.adv s.wrIdx 0).toNat % s.depth.toNat) 1 0 s.bus = some b ∧
        exec .write s = .next (({ s with
          bus := b
          wrIdx := s.adv s.wrIdx 1
          span := s.span + 1 } : State).recordGhost.complete .ok 1 0))

/-- 43_write_path.md R161, R162: what WRITE_N stores, from which cursor, how many leading items it skips, what it returns, in
the three cases of WSEL. -/
def Obligations.WriteNResult : Prop :=
  ∀ (cm : CopyMode) (s : State), Passes (.writeN cm) s → Admitted (.writeN cm) s →
    let n := s.opB.toNat
    let D := s.depth.toNat
    let stores (w : U16) (k skip : Nat) (span : Int) : Prop :=
      (k = 0 → exec (.writeN cm) s = .next (s.recordGhost.complete .ok 0 0)) ∧
      (k ≠ 0 → ∃ b, push s.store cm s.opX ((s.adv w 0).toNat % D) k skip s.bus = some b ∧
        exec (.writeN cm) s = .next (({ s with
          bus := b
          wrIdx := s.adv w (BitVec.ofNat 16 k)
          span := span } : State).recordGhost.complete .ok (BitVec.ofNat 16 k) 0))
    (s.ovw = false →
      stores s.wrIdx (min n (D - min s.rawCount.toNat D)) 0 (s.span + (min n (D - min s.rawCount.toNat D) : Nat))) ∧
    (s.ovw = true → D ≤ n → stores s.rdIdx D (n - D) D) ∧
    (s.ovw = true → n < D → stores s.wrIdx n 0 (s.span + n))

/-- 43_write_path.md R162 (b): after a full overwrite with the cursors in range the FIFO holds exactly DEPTH items, without an
overflow, RD_IDX untouched. -/
def Obligations.FullOverwriteLeavesDepthItems : Prop :=
  ∀ (cm : CopyMode) (s t : State), Inv s → s.contract = true → s.ovw = true → 1 ≤ s.depth.toNat →
    s.depth.toNat ≤ s.opB.toNat → Passes (.writeN cm) s → exec (.writeN cm) s = .next t →
      t.rdIdx = s.rdIdx ∧ t.rawCount = s.depth ∧ t.curPort.resVal = s.depth ∧ ovfp t.depth t.rawCount = false ∧
      t.contract = true ∧ t.span = s.depth.toNat

/-! ## Copies -/

/-- 20_memory.md R55 and R53, 43_write_path.md R163: with no other master and no device in the way and no overlap, PUSH in INC
mode puts byte S + t of the external data at BA(rel0, t), and every other byte of memory stays. -/
def Obligations.PushIncStoresTheBytes : Prop :=
  ∀ (g : Store) (xa rel0 n skip : Nat) (b : Bus),
    let L := n * g.isize
    let src (t : Nat) := (xa + skip * g.isize + t) % g.params.space
    b.race = [] → L ≤ g.cap → g.cap ≤ g.params.space →
    (∀ t < L, readable g.params (src t) = true ∧ isDevice g.params (src t) = false) →
    (∀ t < L, storable g.params (g.ba rel0 t) = true) →
    (∀ t < L, ∀ u < L, src t ≠ g.ba rel0 u) →
    ∃ b', push g .inc xa rel0 n skip b = some b' ∧
      (∀ t < L, b'.byteAt (g.ba rel0 t) = b.byteAt (src t)) ∧
      (∀ a, (∀ t < L, a ≠ g.ba rel0 t) → b'.byteAt a = b.byteAt a) ∧ b'.rx = b.rx

/-- 20_memory.md R56, R61: PUSH in CONST mode takes ceil((S + L) / 4) words from the fixed address, discards the first S bytes of
the stream and stores the next L in order, across the wrap of the array. From a device, stream byte 4i + j is bits [8j+7:8j] of
its word i (that it answers from a list of words is the model's, log 4); from ordinary memory it is the byte at xa + j. No other
master writes meanwhile (log 7), and the fixed address does not lie in the stored bytes (70_reset_and_hazards.md R347). -/
def Obligations.PushConstStoresTheStream : Prop :=
  ∀ (g : Store) (xa rel0 n skip : Nat) (b : Bus),
    let L := n * g.isize
    let S := skip * g.isize
    let src (j : Nat) := (xa + j) % g.params.space
    b.race = [] → L ≤ g.cap → g.cap ≤ g.params.space →
    (∀ t < L, storable g.params (g.ba rel0 t) = true) →
    (∀ (words : List Word) (rest : List (Nat × Word)), xa < g.params.space →
      (∀ j < 4, isDevice g.params (src j) = true) →
      words.length = (S + L + 3) / 4 → b.rx = words.map (fun w => (xa, w)) ++ rest →
      ∃ b', push g .const xa rel0 n skip b = some b' ∧ b'.rx = rest ∧
        (∀ t < L, (b'.byteAt (g.ba rel0 t)).toNat =
          (words.getD ((S + t) / 4) 0).toNat / 2 ^ (8 * ((S + t) % 4)) % 2 ^ 8) ∧
        (∀ a, (∀ t < L, a ≠ g.ba rel0 t) → b'.byteAt a = b.byteAt a)) ∧
    ((∀ j < 4, readable g.params (src j) = true ∧ isDevice g.params (src j) = false) →
      (∀ j < 4, ∀ t < L, src j ≠ g.ba rel0 t) →
      ∃ b', push g .const xa rel0 n skip b = some b' ∧ b'.rx = b.rx ∧
        (∀ t < L, b'.byteAt (g.ba rel0 t) = b.byteAt (src ((S + t) % 4))) ∧
        (∀ a, (∀ t < L, a ≠ g.ba rel0 t) → b'.byteAt a = b.byteAt a))

/-- 20_memory.md R57, 44_read_path.md R184: with no other master and no device in the way and no overlap, PULL in INC mode puts
the byte at BA(rel0, t) at xa + t, and every other byte of memory, the backing store's among them, stays. -/
def Obligations.PullIncDeliversTheBytes : Prop :=
  ∀ (g : Store) (xa rel0 n : Nat) (b : Bus),
    let L := n * g.isize
    let dst (t : Nat) := (xa + t) % g.params.space
    b.race = [] → L ≤ g.cap → L ≤ g.params.space →
    (∀ t < L, readable g.params (g.ba rel0 t) = true ∧ isDevice g.params (g.ba rel0 t) = false) →
    (∀ t < L, storable g.params (dst t) = true) →
    (∀ t < L, ∀ u < L, g.ba rel0 t ≠ dst u) →
    ∃ b', pull g .inc xa rel0 n b = some b' ∧
      (∀ t < L, b'.byteAt (dst t) = b.byteAt (g.ba rel0 t)) ∧
      (∀ a, (∀ t < L, a ≠ dst t) → b'.byteAt a = b.byteAt a)

/-- 20_memory.md R58, R61: PULL in CONST mode writes ceil(L / 4) words to the fixed address, lane j of word i being byte 4i + j of
the run and 0x00 from byte L on. To a device, memory stays: that clause is the model's choice, a write to a device changes no
memory (log 4). To ordinary memory, lane j is stored at xa + j and the last word written stays; where two lanes have one address
(ADDR_W = 1) the higher lane stays (log 13). No other master writes meanwhile (log 7). -/
def Obligations.PullConstWritesTheWords : Prop :=
  ∀ (g : Store) (xa rel0 n : Nat) (b : Bus),
    let L := n * g.isize
    let dst (j : Nat) := (xa + j) % g.params.space
    let streamByte (k : Nat) : Byte := if k < L then b.byteAt (g.ba rel0 k) else 0x00
    let writesTheWords (b' : Bus) : Prop :=
      (b'.log.filter fun x => x.shape.write) =
        ((List.range ((L + 3) / 4)).map fun i =>
          Access.wr (xa % g.params.space) ((List.range 4).map fun j => streamByte (4 * i + j))).reverse ++
        b.log.filter fun x => x.shape.write
    b.race = [] → L ≤ g.cap →
    (∀ t < L, readable g.params (g.ba rel0 t) = true ∧ isDevice g.params (g.ba rel0 t) = false) →
    ((∀ j < 4, isDevice g.params (dst j) = true) →
      ∃ b', pull g .const xa rel0 n b = some b' ∧ b'.mem = b.mem ∧ writesTheWords b') ∧
    ((∀ j < 4, storable g.params (dst j) = true) → (∀ j < 4, ∀ t < L, dst j ≠ g.ba rel0 t) →
      ∃ b', pull g .const xa rel0 n b = some b' ∧ writesTheWords b' ∧
        (L = 0 → b'.mem = b.mem) ∧
        (L ≠ 0 → ∀ j < 4, (∀ k < 4, j < k → dst k ≠ dst j) →
          b'.byteAt (dst j) = streamByte (4 * ((L + 3) / 4 - 1) + j)) ∧
        (∀ a, (∀ j < 4, a ≠ dst j) → b'.byteAt a = b.byteAt a))

/-- 20_memory.md R59: every command makes exactly the accesses its PUSH or PULL gives, in order, each once, and no other; one
that moves no items makes none; a CONST-mode PUSH of T bytes makes ceil(T / 4) reads, a CONST-mode PULL of L bytes ceil(L / 4)
writes of the fixed address. -/
def Obligations.AccessesAreExact : Prop :=
  (∀ (i : Instr) (s t : State), exec i s = .next t →
    (Passes i s → t.bus.log.map Access.shape = (commandShapes i s).reverse ++ s.bus.log.map Access.shape) ∧
    (¬ Passes i s → t.bus = s.bus) ∧ (copyCall i s = none → t.bus = s.bus)) ∧
  (∀ (g : Store) (xa rel0 n skip : Nat),
    ((CopyCall.push .const xa rel0 n skip).shapes g).countP (fun x => !x.write) = ((skip + n) * g.isize + 3) / 4) ∧
  (∀ (g : Store) (xa rel0 n : Nat),
    ((CopyCall.pull .const xa rel0 n).shapes g).countP (fun x => x.write) = (n * g.isize + 3) / 4)

/-- The memory frame of every command: a byte outside the addresses the command stores to (computed by the same BA and
external address its copy uses, 20_memory.md R53 to R58), and where no other master writes meanwhile, reads as before. -/
def Obligations.MemoryFrameOfEveryCommand : Prop :=
  ∀ (i : Instr) (s t : State) (a : Nat), exec i s = .next t → (Passes i s → a ∉ storedAddrs i s) → a ∉ racedAddrs s →
    t.bus.byteAt a = s.bus.byteAt a

/-! ## Read path -/

/-- 44_read_path.md R180 with 42_overflow.md R141: READ corrects first; empty, it returns 0; otherwise it copies the item at the
corrected read cursor out and advances the cursor by one. -/
def Obligations.ReadResult : Prop :=
  ∀ s : State, Passes .read s → Admitted .read s →
    let ovf := s.depth < s.rawCount
    let r := if ovf then s.bwd s.wrIdx s.depth else s.rdIdx
    let k : Int := if ovf then s.depth.toNat else s.span
    let c := min s.rawCount.toNat s.depth.toNat
    (c = 0 → exec .read s = .next (({ s with rdIdx := r, span := k } : State).recordGhost.complete .ok 0 0)) ∧
    (c ≠ 0 → ∃ b, pull s.store .inc s.opX ((s.adv r 0).toNat % s.depth.toNat) 1 s.bus = some b ∧
      exec .read s = .next (({ s with
        bus := b
        rdIdx := s.adv r 1
        span := k - 1 } : State).recordGhost.complete .ok 1 0))

/-- 44_read_path.md R181: READ_N copies min(n, count) items out from the corrected read cursor, advances the cursor by that and
returns it; with none to move only the correction happens. -/
def Obligations.ReadNResult : Prop :=
  ∀ (cm : CopyMode) (s : State), Passes (.readN cm) s → Admitted (.readN cm) s →
    let ovf := s.depth < s.rawCount
    let r := if ovf then s.bwd s.wrIdx s.depth else s.rdIdx
    let k : Int := if ovf then s.depth.toNat else s.span
    let m := min s.opB.toNat (min s.rawCount.toNat s.depth.toNat)
    (m = 0 → exec (.readN cm) s = .next (({ s with rdIdx := r, span := k } : State).recordGhost.complete .ok 0 0)) ∧
    (m ≠ 0 → ∃ b, pull s.store cm s.opX ((s.adv r 0).toNat % s.depth.toNat) m s.bus = some b ∧
      exec (.readN cm) s = .next (({ s with
        bus := b
        rdIdx := s.adv r (BitVec.ofNat 16 m)
        span := k - m } : State).recordGhost.complete .ok (BitVec.ofNat 16 m) 0))

/-- 44_read_path.md R182, R183: PEEK_AT copies the item at the offset out and PEEK_AT_N min(n, count - offset) items from it;
neither advances the read cursor, both correct it first; with nothing there they return 0. -/
def Obligations.PeekResults : Prop :=
  ∀ (i : Instr) (cm : CopyMode) (s : State), (i = .peekAt ∧ cm = .inc ∨ i = .peekAtN cm) → Passes i s → Admitted i s →
    let ovf := s.depth < s.rawCount
    let r := if ovf then s.bwd s.wrIdx s.depth else s.rdIdx
    let k : Int := if ovf then s.depth.toNat else s.span
    let n := if i = .peekAt then 1 else s.opB.toNat
    let m := min n (min s.rawCount.toNat s.depth.toNat - s.opA.toNat)
    (m = 0 → exec i s = .next (({ s with rdIdx := r, span := k } : State).recordGhost.complete .ok 0 0)) ∧
    (m ≠ 0 → ∃ b, pull s.store cm s.opX ((s.adv r s.opA).toNat % s.depth.toNat) m s.bus = some b ∧
      exec i s = .next (({ s with
        bus := b
        rdIdx := r
        span := k } : State).recordGhost.complete .ok (BitVec.ofNat 16 m) 0))

/-- 44_read_path.md R184, its round-trip property (the source's): N ≤ DEPTH items written to an empty FIFO that is not
overwritable and then read back arrive in order, byte for byte, and the FIFO is empty again. The memory is plain, nothing else
writes it, and the source and destination ranges do not overlap the backing store (70_reset_and_hazards.md R340, R347). -/
def Obligations.WriteThenReadRoundTrip : Prop :=
  ∀ (s : State) (n a a' : U16) (src dst : Word),
    Inv s → Tracked s → s.ghostFault = false → s.configured = true → s.ovw = false → s.wrIdx = s.rdIdx →
    1 ≤ n.toNat → n.toNat ≤ s.depth.toNat → s.params.map = [] → s.bus.race = [] → s.store.cap ≤ s.params.space →
    (∀ t < n.toNat * s.itemSize.toNat, ∀ u < s.store.cap,
      (src.toNat + t) % s.params.space ≠ s.store.ba 0 u ∧ (dst.toNat + t) % s.params.space ≠ s.store.ba 0 u) →
    ∃ t1 t2, exec (.writeN .inc) (s.withArgs a n src) = .next t1 ∧ exec (.readN .inc) (t1.withArgs a' n dst) = .next t2 ∧
      t1.curPort.resVal = n ∧ t2.curPort.resVal = n ∧ t2.rawCount = 0 ∧ t2.ghostFault = false ∧
      (∀ t < n.toNat * s.itemSize.toNat,
        t2.bus.byteAt ((dst.toNat + t) % s.params.space) = s.bus.byteAt ((src.toNat + t) % s.params.space))

/-! ## Linear regions -/

/-- 45_linear_region.md R200: GET_LINEAR_READ_INFO corrects, then answers the run of at most n items from the offset to the
physical end of the array; it moves nothing and advances nothing. -/
def Obligations.LinearReadResult : Prop :=
  ∀ s : State, Passes .getLinearReadInfo s →
    let ovf := s.depth < s.rawCount
    let r := if ovf then s.bwd s.wrIdx s.depth else s.rdIdx
    let k : Int := if ovf then s.depth.toNat else s.span
    let m := min s.opB.toNat (min s.rawCount.toNat s.depth.toNat - s.opA.toNat)
    let slot := (s.adv r s.opA).toNat % s.depth.toNat
    exec .getLinearReadInfo s = .next (({ s with rdIdx := r, span := k } : State).recordGhost.complete .ok
      (if m = 0 then 0 else BitVec.ofNat 16 (min m (s.depth.toNat - slot)))
      (if m = 0 then 0 else BitVec.ofNat 32 ((s.bufBase.toNat + slot * s.itemSize.toNat) % 2 ^ s.params.addrW)))

/-- 45_linear_region.md R201: GET_LINEAR_WRITE_INFO in its three cases, and CONTRACT for n > 2·DEPTH on an overwritable FIFO. -/
def Obligations.LinearWriteResult : Prop :=
  ∀ s : State, Passes .getLinearWriteInfo s →
    let n := s.opB.toNat
    let o := s.opA.toNat
    let D := s.depth.toNat
    let free := D - min s.rawCount.toNat D
    let answers (w : U16) (m : Nat) : Prop :=
      let slot := (s.adv w s.opA).toNat % D
      exec .getLinearWriteInfo s = .next (s.recordGhost.complete .ok
        (if m = 0 then 0 else BitVec.ofNat 16 (min m (D - slot)))
        (if m = 0 then 0 else BitVec.ofNat 32 ((s.bufBase.toNat + slot * s.itemSize.toNat) % 2 ^ s.params.addrW)))
    (s.ovw = false → answers s.wrIdx (min n (free - o))) ∧
    (s.ovw = true → 2 * D < n → exec .getLinearWriteInfo s = .next (s.complete .contract 0 0)) ∧
    (s.ovw = true → D ≤ n → n ≤ 2 * D → answers s.rdIdx D) ∧
    (s.ovw = true → n < D → answers s.wrIdx n)

/-- 45_linear_region.md R202 for reading: when the run is cut at the end of the array, advancing by it and asking for the rest
gives the rest, from BUF_BASE on: the two runs cover the items with no gap and no overlap. -/
def Obligations.TwoCallCoverageRead : Prop :=
  ∀ s t1 t2 t3 : State, Inv s → Tracked s → s.ghostFault = false → s.opA = 0 →
    let m := min s.opB.toNat (min s.rawCount.toNat s.depth.toNat)
    Passes .getLinearReadInfo s → exec .getLinearReadInfo s = .next t1 → t1.curPort.resVal.toNat < m →
    s.dmaCapable = true →
    exec .advanceReadPointer (t1.withArgs 0 t1.curPort.resVal s.curPort.argAddr) = .next t2 →
    exec .getLinearReadInfo (t2.withArgs 0 (s.opB - t1.curPort.resVal) s.curPort.argAddr) = .next t3 →
      t3.curPort.resVal.toNat = m - t1.curPort.resVal.toNat ∧ t3.curPort.resPtr = s.bufBase ∧
      t1.curPort.resPtr = s.slotAddr (s.depth.toNat - t1.curPort.resVal.toNat) ∧ t3.ghostFault = false

/-- 45_linear_region.md R202 for writing into a FIFO that is not overwritable. -/
def Obligations.TwoCallCoverageWrite : Prop :=
  ∀ s t1 t2 t3 : State, Inv s → Tracked s → s.ghostFault = false → s.opA = 0 → s.ovw = false →
    let m := min s.opB.toNat (s.depth.toNat - min s.rawCount.toNat s.depth.toNat)
    Passes .getLinearWriteInfo s → exec .getLinearWriteInfo s = .next t1 → t1.curPort.resVal.toNat < m →
    s.dmaCapable = true →
    exec .advanceWritePointer (t1.withArgs 0 t1.curPort.resVal s.curPort.argAddr) = .next t2 →
    exec .getLinearWriteInfo (t2.withArgs 0 (s.opB - t1.curPort.resVal) s.curPort.argAddr) = .next t3 →
      t3.curPort.resVal.toNat = m - t1.curPort.resVal.toNat ∧ t3.curPort.resPtr = s.bufBase ∧
      t1.curPort.resPtr = s.slotAddr (s.depth.toNat - t1.curPort.resVal.toNat) ∧ t3.ghostFault = false

/-! ## Manual pointers -/

/-- 46_manual_pointer.md R220 to R224: each of the four commands moves its cursor by B, by ADV or BWD, whatever the values, and
changes nothing else but SPAN and its port's result registers. -/
def Obligations.ManualPointerResults : Prop :=
  ∀ s : State,
    (Passes .advanceWritePointer s → exec .advanceWritePointer s = .next (({ s with
      wrIdx := s.adv s.wrIdx s.opB, span := s.span + s.opB.toNat } : State).recordGhost.complete .ok 1 0)) ∧
    (Passes .advanceReadPointer s → exec .advanceReadPointer s = .next (({ s with
      rdIdx := s.adv s.rdIdx s.opB, span := s.span - s.opB.toNat } : State).recordGhost.complete .ok 1 0)) ∧
    (Passes .backwardWritePointer s → exec .backwardWritePointer s = .next (({ s with
      wrIdx := s.bwd s.wrIdx s.opB, span := s.span - s.opB.toNat } : State).recordGhost.complete .ok 1 0)) ∧
    (Passes .backwardReadPointer s → exec .backwardReadPointer s = .next (({ s with
      rdIdx := s.bwd s.rdIdx s.opB, span := s.span + s.opB.toNat } : State).recordGhost.complete .ok 1 0))

/-! ## Queries -/

/-- 47_query.md R240 to R244: what each query returns; a query changes nothing but its port's result registers (and the ghost
fault, recorded only in a state whose contract is already broken). -/
def Obligations.QueryResults : Prop :=
  ∀ s : State,
    let c := s.rawCount.toNat
    let D := s.depth.toNat
    let answers (i : Instr) (v : Nat) : Prop :=
      Passes i s → exec i s = .next (s.recordGhost.complete .ok (BitVec.ofNat 16 v) 0)
    answers .count (min c D) ∧ answers .empty (if c = 0 then 1 else 0) ∧ answers .full (if D ≤ c then 1 else 0) ∧
    answers .remaining (D - min c D) ∧ answers .overflowed (if D < c then 1 else 0)

/-- 47_query.md R246: a query writes no shared register and makes no memory access, and its RES_VAL is the same in any two
states that agree on CONFIGURED, DEPTH, UNUSED and the cursors, so repeating it, on any port, with no mutating command between
gives the same answer. -/
def Obligations.QueriesAreIdempotent : Prop :=
  ∀ i ∈ [Instr.count, .empty, .full, .remaining, .overflowed],
    (∀ s t : State, exec i s = .next t →
      t.bus = s.bus ∧ t.configured = s.configured ∧ t.bufBase = s.bufBase ∧ t.depth = s.depth ∧ t.itemSize = s.itemSize ∧
      t.ovw = s.ovw ∧ t.maxIndex = s.maxIndex ∧ t.unused = s.unused ∧ t.wrIdx = s.wrIdx ∧ t.rdIdx = s.rdIdx) ∧
    (∀ s u t v : State, u.configured = s.configured → u.depth = s.depth → u.unused = s.unused → u.wrIdx = s.wrIdx →
      u.rdIdx = s.rdIdx → exec i s = .next t → exec i u = .next v → v.curPort.resVal = t.curPort.resVal)

/-- 47_query.md R247: the relations between the answers for one snapshot while the contract holds. -/
def Obligations.QueryRelations : Prop :=
  ∀ s : State, s.cur < s.ports.length → s.configured = true → s.contract = true →
    ∃ tc te tf tr tv, exec .count s = .next tc ∧ exec .empty s = .next te ∧ exec .full s = .next tf ∧
      exec .remaining s = .next tr ∧ exec .overflowed s = .next tv ∧
      tc.curPort.resVal.toNat + tr.curPort.resVal.toNat = s.depth.toNat ∧
      (te.curPort.resVal = 1 → tc.curPort.resVal = 0) ∧
      (tf.curPort.resVal = 1 ↔ tr.curPort.resVal = 0) ∧
      (tv.curPort.resVal = 1 → tf.curPort.resVal = 1 ∧ tc.curPort.resVal = s.depth)

/-! ## Reset, the invariant, the contract -/

/-- 70_reset_and_hazards.md R330, R331: reset, from any state, puts every register at its reset value, discards the pending
commands, clears the ghost state and leaves memory as it is. -/
def Obligations.ResetPutsEveryRegister : Prop :=
  ∀ (s : State) (rest : List Event), s.agenda = .reset :: rest →
    ∃ t, step s = .next t ∧ t.configured = false ∧ t.bufBase = 0 ∧ t.depth = 0 ∧ t.itemSize = 0 ∧ t.ovw = false ∧
      t.maxIndex = 0xFFFF ∧ t.unused = 0 ∧ t.wrIdx = 0 ∧ t.rdIdx = 0 ∧ t.span = 0 ∧ t.ghostFault = false ∧
      t.ports.length = s.params.nports ∧
      (∀ p ∈ t.ports, p.argA = 0 ∧ p.argB = 0 ∧ p.argAddr = 0 ∧ p.code = .ok ∧ p.busy = false ∧ p.resVal = 0 ∧
        p.resPtr = 0 ∧ p.pending = none) ∧
      t.bus = s.bus ∧ t.params = s.params ∧ t.agenda = rest

/-- Every step keeps the invariant, whatever the event (10_state.md R23, R26, R29; 20_memory.md R52). -/
def Obligations.StepKeepsInvariant : Prop :=
  ∀ s t : State, Inv s → step s = .next t → Inv t

/-- The reset state of every admissible set of parameters meets the invariant, with the contract holding and SPAN exact. -/
def Obligations.ResetMeetsInvariant : Prop :=
  ∀ P : Params, P.wf → Inv (State.resetWith P) ∧ Tracked (State.resetWith P)

/-- 10_state.md R34, 41_index_arithmetic.md R128: as long as no ghost fault has been recorded the contract holds and
RAWCNT(WR_IDX, RD_IDX) is exactly SPAN; every step keeps this, whatever the event. -/
def Obligations.StepKeepsCountExact : Prop :=
  ∀ s t : State, Inv s → Tracked s → step s = .next t → Tracked t

/-- 10_state.md R34: a recorded ghost fault is cleared by nothing but reset. -/
def Obligations.GhostFaultSticks : Prop :=
  ∀ s t : State, step s = .next t → s.ghostFault = true → t.ghostFault = true ∨ ∃ rest, s.agenda = .reset :: rest

/-- 42_overflow.md R143, 60_exceptions.md R306: on a FIFO that is not overwritable, no command a port without the DMA
capability can issue breaks the contract. -/
def Obligations.SafeApiKeepsContract : Prop :=
  ∀ (w : Word) (s t : State), Inv s → Tracked s → s.ghostFault = false → s.ovw = false → s.dmaCapable = false →
    runWord w s = .next t → t.ghostFault = false

/-! ## The host side -/

/-- 10_state.md R29, R30: host writes of CMD and the operand registers of port p, taken while BUSY = 0 and ignored while
BUSY = 1. -/
def Obligations.HostWritesIssueAndAreIgnoredWhileBusy : Prop :=
  ∀ (s : State) (p : Nat) (v : Word) (q : PortState) (rest : List Event), s.params.portBase % 4 = 0 →
    s.ports.length = s.params.nports → s.ports[p]? = some q →
    let at_ (off : Nat) : State := { s with agenda := .hostWrite (s.params.portBase + 0x20 * p + off) 4 v :: rest }
    let becomes (off : Nat) (q' : PortState) : Prop :=
      step (at_ off) = .next { s with agenda := rest, ports := s.ports.set p q', resp := .written }
    (q.busy = false →
      becomes 0x00 { q with pending := some v } ∧ becomes 0x04 { q with argA := v.setWidth 16 } ∧
      becomes 0x08 { q with argB := v.setWidth 16 } ∧ becomes 0x0C { q with argAddr := v }) ∧
    (q.busy = true → becomes 0x00 q ∧ becomes 0x04 q ∧ becomes 0x08 q ∧ becomes 0x0C q) ∧
    becomes 0x10 q ∧ becomes 0x14 q ∧ becomes 0x18 q ∧ becomes 0x1C q

/-- 10_state.md R29, with the code numbers of 60_exceptions.md R301: what a host read of each register of port p returns; it
changes nothing but the bus's answer (the model's own field, log 15). -/
def Obligations.HostReadsReturnTheRegisters : Prop :=
  ∀ (s : State) (p : Nat) (q : PortState) (rest : List Event), s.params.portBase % 4 = 0 →
    s.ports.length = s.params.nports → s.ports[p]? = some q →
    let reads (off v : Nat) : Prop :=
      step { s with agenda := .hostRead (s.params.portBase + 0x20 * p + off) 4 :: rest } =
        .next { s with agenda := rest, resp := .data (BitVec.ofNat 32 v) }
    reads 0x00 0 ∧ reads 0x04 q.argA.toNat ∧ reads 0x08 q.argB.toNat ∧ reads 0x0C q.argAddr.toNat ∧
    (∀ c n, (c, n) ∈ [(Code.ok, 0), (.illegal, 1), (.unconfigured, 2), (.capability, 3), (.align, 4), (.contract, 5),
        (.depthZero, 6)] → q.code = c → reads 0x10 (n + (if q.pending = none then 0 else 256))) ∧
    reads 0x14 q.resVal.toNat ∧
    reads 0x18 q.resPtr.toNat ∧ reads 0x1C 0

/-- 60_exceptions.md R314: a host access to an address of the windows that is not 32-bit and aligned is refused with a bus
error and has no effect on the block. -/
def Obligations.OtherHostAccessesAreRefused : Prop :=
  ∀ (s : State) (addr width : Nat) (v : Word) (rest : List Event), 1 ≤ width →
    s.params.portBase ≤ addr → addr < s.params.portBase + 0x20 * s.params.nports → (width ≠ 4 ∨ addr % 4 ≠ 0) →
    step { s with agenda := .hostWrite addr width v :: rest } = .next { s with agenda := rest, resp := .busError } ∧
    step { s with agenda := .hostRead addr width :: rest } = .next { s with agenda := rest, resp := .busError }

/-- 30_encoding.md R88, R89: running the host writes of a well-formed statement on an idle port leaves that port with the
statement's command pending, the operands it uses in its operand registers (0 where omitted), and nothing else changed. -/
def Obligations.AssembledStatementIssues : Prop :=
  ∀ (s : State) (st : Stmt) (q : PortState) (rest : List Event), s.params.wf → s.ports.length = s.params.nports →
    st.wf s.params = true → s.ports[st.port]? = some q → q.busy = false →
    let i := Stmt.instr st
    Sys2Proof.core.run (assemble s.params st).length { s with agenda := assemble s.params st ++ rest } = .next { s with
      agenda := rest
      resp := .written
      ports := s.ports.set st.port { q with
        argA := if i.usesA then BitVec.ofNat 16 (firstGiven [st.depth, st.off]) else q.argA
        argB := if i.usesB then BitVec.ofNat 16 (firstGiven [st.isize, st.n]) else q.argB
        argAddr := if i.usesX then BitVec.ofNat 32 (firstGiven [st.base, st.src, st.dst]) else q.argAddr
        pending := some (encode i) } }

/-- 00_scope.md R12(c): another master's write of a byte of plain memory is what every later read of it returns, and changes no
other byte and no register. Where such a write is stored is the model's choice (log 21), and so is taking
its address modulo 2^ADDR_W (log 23). -/
def Obligations.MasterWriteStoresOneByte : Prop :=
  ∀ (s : State) (addr : Nat) (v : Byte) (rest : List Event), s.agenda = .masterWrite addr v :: rest →
    ∃ m, step s = .next { s with agenda := rest, bus := { s.bus with mem := m } } ∧
      (storable s.params (addr % s.params.space) = true →
        ({ s.bus with mem := m } : Bus).byteAt (addr % s.params.space) = v) ∧
      (∀ a, a ≠ addr % s.params.space → ({ s.bus with mem := m } : Bus).byteAt a = s.bus.byteAt a) ∧
      (storable s.params (addr % s.params.space) = false → m = s.bus.mem)

/-- 10_state.md R32, 60_exceptions.md R317: with no event left, a step is the performance of some port's pending command that has
a performance step, so one fewer is pending; with none it changes nothing. Which one is first is the model's choice (log 5);
that another port's command completes beside one stuck on an access that is not admitted is the model's reading (log 6). -/
def Obligations.IdleEnginePerformsPendingCommands : Prop :=
  ∀ s : State, s.agenda = [] →
    ((∃ p, (perform p s).isSome) →
      ∃ p port w t, s.ports[p]? = some port ∧ port.pending = some w ∧ runWord w { s with cur := p } = .next t ∧
        perform p s = some (.next t) ∧ step s = .next t ∧
        t.ports.countP PortState.busy + 1 = s.ports.countP PortState.busy) ∧
    ((∀ p, perform p s = none) → step s = .next s)
end

