-- ==== Sys2Proof/Laws/State.lean ====
section
/-! SUPPORT. One lemma per field per update of State, so that no later proof unfolds a record update. -/

namespace Sys2Proof.Machine.State

open Sys2Proof

variable (s : State)

@[simp] theorem setWr_params (v : U16) (k : Int) : (s.setWr v k).params = s.params := rfl
@[simp] theorem setWr_configured (v : U16) (k : Int) : (s.setWr v k).configured = s.configured := rfl
@[simp] theorem setWr_bufBase (v : U16) (k : Int) : (s.setWr v k).bufBase = s.bufBase := rfl
@[simp] theorem setWr_depth (v : U16) (k : Int) : (s.setWr v k).depth = s.depth := rfl
@[simp] theorem setWr_itemSize (v : U16) (k : Int) : (s.setWr v k).itemSize = s.itemSize := rfl
@[simp] theorem setWr_ovw (v : U16) (k : Int) : (s.setWr v k).ovw = s.ovw := rfl
@[simp] theorem setWr_maxIndex (v : U16) (k : Int) : (s.setWr v k).maxIndex = s.maxIndex := rfl
@[simp] theorem setWr_unused (v : U16) (k : Int) : (s.setWr v k).unused = s.unused := rfl
@[simp] theorem setWr_wrIdx (v : U16) (k : Int) : (s.setWr v k).wrIdx = v := rfl
@[simp] theorem setWr_rdIdx (v : U16) (k : Int) : (s.setWr v k).rdIdx = s.rdIdx := rfl
@[simp] theorem setWr_ports (v : U16) (k : Int) : (s.setWr v k).ports = s.ports := rfl
@[simp] theorem setWr_span (v : U16) (k : Int) : (s.setWr v k).span = k := rfl
@[simp] theorem setWr_ghostFault (v : U16) (k : Int) : (s.setWr v k).ghostFault = s.ghostFault := rfl
@[simp] theorem setWr_cur (v : U16) (k : Int) : (s.setWr v k).cur = s.cur := rfl
@[simp] theorem setWr_bus (v : U16) (k : Int) : (s.setWr v k).bus = s.bus := rfl
@[simp] theorem setWr_agenda (v : U16) (k : Int) : (s.setWr v k).agenda = s.agenda := rfl
@[simp] theorem setWr_resp (v : U16) (k : Int) : (s.setWr v k).resp = s.resp := rfl

@[simp] theorem setRd_params (v : U16) (k : Int) : (s.setRd v k).params = s.params := rfl
@[simp] theorem setRd_configured (v : U16) (k : Int) : (s.setRd v k).configured = s.configured := rfl
@[simp] theorem setRd_bufBase (v : U16) (k : Int) : (s.setRd v k).bufBase = s.bufBase := rfl
@[simp] theorem setRd_depth (v : U16) (k : Int) : (s.setRd v k).depth = s.depth := rfl
@[simp] theorem setRd_itemSize (v : U16) (k : Int) : (s.setRd v k).itemSize = s.itemSize := rfl
@[simp] theorem setRd_ovw (v : U16) (k : Int) : (s.setRd v k).ovw = s.ovw := rfl
@[simp] theorem setRd_maxIndex (v : U16) (k : Int) : (s.setRd v k).maxIndex = s.maxIndex := rfl
@[simp] theorem setRd_unused (v : U16) (k : Int) : (s.setRd v k).unused = s.unused := rfl
@[simp] theorem setRd_wrIdx (v : U16) (k : Int) : (s.setRd v k).wrIdx = s.wrIdx := rfl
@[simp] theorem setRd_rdIdx (v : U16) (k : Int) : (s.setRd v k).rdIdx = v := rfl
@[simp] theorem setRd_ports (v : U16) (k : Int) : (s.setRd v k).ports = s.ports := rfl
@[simp] theorem setRd_span (v : U16) (k : Int) : (s.setRd v k).span = k := rfl
@[simp] theorem setRd_ghostFault (v : U16) (k : Int) : (s.setRd v k).ghostFault = s.ghostFault := rfl
@[simp] theorem setRd_cur (v : U16) (k : Int) : (s.setRd v k).cur = s.cur := rfl
@[simp] theorem setRd_bus (v : U16) (k : Int) : (s.setRd v k).bus = s.bus := rfl
@[simp] theorem setRd_agenda (v : U16) (k : Int) : (s.setRd v k).agenda = s.agenda := rfl
@[simp] theorem setRd_resp (v : U16) (k : Int) : (s.setRd v k).resp = s.resp := rfl

@[simp] theorem withBus_params (b : Bus) : (s.withBus b).params = s.params := rfl
@[simp] theorem withBus_configured (b : Bus) : (s.withBus b).configured = s.configured := rfl
@[simp] theorem withBus_bufBase (b : Bus) : (s.withBus b).bufBase = s.bufBase := rfl
@[simp] theorem withBus_depth (b : Bus) : (s.withBus b).depth = s.depth := rfl
@[simp] theorem withBus_itemSize (b : Bus) : (s.withBus b).itemSize = s.itemSize := rfl
@[simp] theorem withBus_ovw (b : Bus) : (s.withBus b).ovw = s.ovw := rfl
@[simp] theorem withBus_maxIndex (b : Bus) : (s.withBus b).maxIndex = s.maxIndex := rfl
@[simp] theorem withBus_unused (b : Bus) : (s.withBus b).unused = s.unused := rfl
@[simp] theorem withBus_wrIdx (b : Bus) : (s.withBus b).wrIdx = s.wrIdx := rfl
@[simp] theorem withBus_rdIdx (b : Bus) : (s.withBus b).rdIdx = s.rdIdx := rfl
@[simp] theorem withBus_ports (b : Bus) : (s.withBus b).ports = s.ports := rfl
@[simp] theorem withBus_span (b : Bus) : (s.withBus b).span = s.span := rfl
@[simp] theorem withBus_ghostFault (b : Bus) : (s.withBus b).ghostFault = s.ghostFault := rfl
@[simp] theorem withBus_cur (b : Bus) : (s.withBus b).cur = s.cur := rfl
@[simp] theorem withBus_bus (b : Bus) : (s.withBus b).bus = b := rfl
@[simp] theorem withBus_agenda (b : Bus) : (s.withBus b).agenda = s.agenda := rfl
@[simp] theorem withBus_resp (b : Bus) : (s.withBus b).resp = s.resp := rfl

@[simp] theorem recordGhost_params : (s.recordGhost).params = s.params := rfl
@[simp] theorem recordGhost_configured : (s.recordGhost).configured = s.configured := rfl
@[simp] theorem recordGhost_bufBase : (s.recordGhost).bufBase = s.bufBase := rfl
@[simp] theorem recordGhost_depth : (s.recordGhost).depth = s.depth := rfl
@[simp] theorem recordGhost_itemSize : (s.recordGhost).itemSize = s.itemSize := rfl
@[simp] theorem recordGhost_ovw : (s.recordGhost).ovw = s.ovw := rfl
@[simp] theorem recordGhost_maxIndex : (s.recordGhost).maxIndex = s.maxIndex := rfl
@[simp] theorem recordGhost_unused : (s.recordGhost).unused = s.unused := rfl
@[simp] theorem recordGhost_wrIdx : (s.recordGhost).wrIdx = s.wrIdx := rfl
@[simp] theorem recordGhost_rdIdx : (s.recordGhost).rdIdx = s.rdIdx := rfl
@[simp] theorem recordGhost_ports : (s.recordGhost).ports = s.ports := rfl
@[simp] theorem recordGhost_span : (s.recordGhost).span = s.span := rfl
@[simp] theorem recordGhost_ghostFault : (s.recordGhost).ghostFault = (s.ghostFault || !s.contract) := rfl
@[simp] theorem recordGhost_cur : (s.recordGhost).cur = s.cur := rfl
@[simp] theorem recordGhost_bus : (s.recordGhost).bus = s.bus := rfl
@[simp] theorem recordGhost_agenda : (s.recordGhost).agenda = s.agenda := rfl
@[simp] theorem recordGhost_resp : (s.recordGhost).resp = s.resp := rfl

@[simp] theorem complete_params (c : Code) (v : U16) (q : Word) : (s.complete c v q).params = s.params := rfl
@[simp] theorem complete_configured (c : Code) (v : U16) (q : Word) : (s.complete c v q).configured = s.configured := rfl
@[simp] theorem complete_bufBase (c : Code) (v : U16) (q : Word) : (s.complete c v q).bufBase = s.bufBase := rfl
@[simp] theorem complete_depth (c : Code) (v : U16) (q : Word) : (s.complete c v q).depth = s.depth := rfl
@[simp] theorem complete_itemSize (c : Code) (v : U16) (q : Word) : (s.complete c v q).itemSize = s.itemSize := rfl
@[simp] theorem complete_ovw (c : Code) (v : U16) (q : Word) : (s.complete c v q).ovw = s.ovw := rfl
@[simp] theorem complete_maxIndex (c : Code) (v : U16) (q : Word) : (s.complete c v q).maxIndex = s.maxIndex := rfl
@[simp] theorem complete_unused (c : Code) (v : U16) (q : Word) : (s.complete c v q).unused = s.unused := rfl
@[simp] theorem complete_wrIdx (c : Code) (v : U16) (q : Word) : (s.complete c v q).wrIdx = s.wrIdx := rfl
@[simp] theorem complete_rdIdx (c : Code) (v : U16) (q : Word) : (s.complete c v q).rdIdx = s.rdIdx := rfl
@[simp] theorem complete_ports (c : Code) (v : U16) (q : Word) : (s.complete c v q).ports = s.ports.modify s.cur fun p => { p with code := c, resVal := v, resPtr := q, pending := none } := rfl
@[simp] theorem complete_span (c : Code) (v : U16) (q : Word) : (s.complete c v q).span = s.span := rfl
@[simp] theorem complete_ghostFault (c : Code) (v : U16) (q : Word) : (s.complete c v q).ghostFault = s.ghostFault := rfl
@[simp] theorem complete_cur (c : Code) (v : U16) (q : Word) : (s.complete c v q).cur = s.cur := rfl
@[simp] theorem complete_bus (c : Code) (v : U16) (q : Word) : (s.complete c v q).bus = s.bus := rfl
@[simp] theorem complete_agenda (c : Code) (v : U16) (q : Word) : (s.complete c v q).agenda = s.agenda := rfl
@[simp] theorem complete_resp (c : Code) (v : U16) (q : Word) : (s.complete c v q).resp = s.resp := rfl

@[simp] theorem configureRegs_params (d z : U16) (x : Nat) (ow : Bool) : (s.configureRegs d z x ow).params = s.params := rfl
@[simp] theorem configureRegs_configured (d z : U16) (x : Nat) (ow : Bool) : (s.configureRegs d z x ow).configured = true := rfl
@[simp] theorem configureRegs_bufBase (d z : U16) (x : Nat) (ow : Bool) : (s.configureRegs d z x ow).bufBase = BitVec.ofNat 32 x := rfl
@[simp] theorem configureRegs_depth (d z : U16) (x : Nat) (ow : Bool) : (s.configureRegs d z x ow).depth = d := rfl
@[simp] theorem configureRegs_itemSize (d z : U16) (x : Nat) (ow : Bool) : (s.configureRegs d z x ow).itemSize = z := rfl
@[simp] theorem configureRegs_ovw (d z : U16) (x : Nat) (ow : Bool) : (s.configureRegs d z x ow).ovw = ow := rfl
@[simp] theorem configureRegs_maxIndex (d z : U16) (x : Nat) (ow : Bool) : (s.configureRegs d z x ow).maxIndex = maxIndexOf d := rfl
@[simp] theorem configureRegs_unused (d z : U16) (x : Nat) (ow : Bool) : (s.configureRegs d z x ow).unused = unusedOf d := rfl
@[simp] theorem configureRegs_wrIdx (d z : U16) (x : Nat) (ow : Bool) : (s.configureRegs d z x ow).wrIdx = 0 := rfl
@[simp] theorem configureRegs_rdIdx (d z : U16) (x : Nat) (ow : Bool) : (s.configureRegs d z x ow).rdIdx = 0 := rfl
@[simp] theorem configureRegs_ports (d z : U16) (x : Nat) (ow : Bool) : (s.configureRegs d z x ow).ports = s.ports := rfl
@[simp] theorem configureRegs_span (d z : U16) (x : Nat) (ow : Bool) : (s.configureRegs d z x ow).span = 0 := rfl
@[simp] theorem configureRegs_ghostFault (d z : U16) (x : Nat) (ow : Bool) : (s.configureRegs d z x ow).ghostFault = s.ghostFault := rfl
@[simp] theorem configureRegs_cur (d z : U16) (x : Nat) (ow : Bool) : (s.configureRegs d z x ow).cur = s.cur := rfl
@[simp] theorem configureRegs_bus (d z : U16) (x : Nat) (ow : Bool) : (s.configureRegs d z x ow).bus = s.bus := rfl
@[simp] theorem configureRegs_agenda (d z : U16) (x : Nat) (ow : Bool) : (s.configureRegs d z x ow).agenda = s.agenda := rfl
@[simp] theorem configureRegs_resp (d z : U16) (x : Nat) (ow : Bool) : (s.configureRegs d z x ow).resp = s.resp := rfl

@[simp] theorem clearRegs_params : (s.clearRegs).params = s.params := rfl
@[simp] theorem clearRegs_configured : (s.clearRegs).configured = s.configured := rfl
@[simp] theorem clearRegs_bufBase : (s.clearRegs).bufBase = s.bufBase := rfl
@[simp] theorem clearRegs_depth : (s.clearRegs).depth = s.depth := rfl
@[simp] theorem clearRegs_itemSize : (s.clearRegs).itemSize = s.itemSize := rfl
@[simp] theorem clearRegs_ovw : (s.clearRegs).ovw = s.ovw := rfl
@[simp] theorem clearRegs_maxIndex : (s.clearRegs).maxIndex = maxIndexOf s.depth := rfl
@[simp] theorem clearRegs_unused : (s.clearRegs).unused = unusedOf s.depth := rfl
@[simp] theorem clearRegs_wrIdx : (s.clearRegs).wrIdx = 0 := rfl
@[simp] theorem clearRegs_rdIdx : (s.clearRegs).rdIdx = 0 := rfl
@[simp] theorem clearRegs_ports : (s.clearRegs).ports = s.ports := rfl
@[simp] theorem clearRegs_span : (s.clearRegs).span = 0 := rfl
@[simp] theorem clearRegs_ghostFault : (s.clearRegs).ghostFault = s.ghostFault := rfl
@[simp] theorem clearRegs_cur : (s.clearRegs).cur = s.cur := rfl
@[simp] theorem clearRegs_bus : (s.clearRegs).bus = s.bus := rfl
@[simp] theorem clearRegs_agenda : (s.clearRegs).agenda = s.agenda := rfl
@[simp] theorem clearRegs_resp : (s.clearRegs).resp = s.resp := rfl

@[simp] theorem setOvw_params (ow : Bool) : (s.setOvw ow).params = s.params := rfl
@[simp] theorem setOvw_configured (ow : Bool) : (s.setOvw ow).configured = s.configured := rfl
@[simp] theorem setOvw_bufBase (ow : Bool) : (s.setOvw ow).bufBase = s.bufBase := rfl
@[simp] theorem setOvw_depth (ow : Bool) : (s.setOvw ow).depth = s.depth := rfl
@[simp] theorem setOvw_itemSize (ow : Bool) : (s.setOvw ow).itemSize = s.itemSize := rfl
@[simp] theorem setOvw_ovw (ow : Bool) : (s.setOvw ow).ovw = ow := rfl
@[simp] theorem setOvw_maxIndex (ow : Bool) : (s.setOvw ow).maxIndex = s.maxIndex := rfl
@[simp] theorem setOvw_unused (ow : Bool) : (s.setOvw ow).unused = s.unused := rfl
@[simp] theorem setOvw_wrIdx (ow : Bool) : (s.setOvw ow).wrIdx = s.wrIdx := rfl
@[simp] theorem setOvw_rdIdx (ow : Bool) : (s.setOvw ow).rdIdx = s.rdIdx := rfl
@[simp] theorem setOvw_ports (ow : Bool) : (s.setOvw ow).ports = s.ports := rfl
@[simp] theorem setOvw_span (ow : Bool) : (s.setOvw ow).span = s.span := rfl
@[simp] theorem setOvw_ghostFault (ow : Bool) : (s.setOvw ow).ghostFault = s.ghostFault := rfl
@[simp] theorem setOvw_cur (ow : Bool) : (s.setOvw ow).cur = s.cur := rfl
@[simp] theorem setOvw_bus (ow : Bool) : (s.setOvw ow).bus = s.bus := rfl
@[simp] theorem setOvw_agenda (ow : Bool) : (s.setOvw ow).agenda = s.agenda := rfl
@[simp] theorem setOvw_resp (ow : Bool) : (s.setOvw ow).resp = s.resp := rfl

@[simp] theorem correct_params : (s.correct).params = s.params := rfl
@[simp] theorem correct_configured : (s.correct).configured = s.configured := rfl
@[simp] theorem correct_bufBase : (s.correct).bufBase = s.bufBase := rfl
@[simp] theorem correct_depth : (s.correct).depth = s.depth := rfl
@[simp] theorem correct_itemSize : (s.correct).itemSize = s.itemSize := rfl
@[simp] theorem correct_ovw : (s.correct).ovw = s.ovw := rfl
@[simp] theorem correct_maxIndex : (s.correct).maxIndex = s.maxIndex := rfl
@[simp] theorem correct_unused : (s.correct).unused = s.unused := rfl
@[simp] theorem correct_wrIdx : (s.correct).wrIdx = s.wrIdx := rfl
@[simp] theorem correct_rdIdx : (s.correct).rdIdx = s.bwd s.wrIdx s.depth := rfl
@[simp] theorem correct_ports : (s.correct).ports = s.ports := rfl
@[simp] theorem correct_span : (s.correct).span = (s.depth.toNat : Int) := rfl
@[simp] theorem correct_ghostFault : (s.correct).ghostFault = s.ghostFault := rfl
@[simp] theorem correct_cur : (s.correct).cur = s.cur := rfl
@[simp] theorem correct_bus : (s.correct).bus = s.bus := rfl
@[simp] theorem correct_agenda : (s.correct).agenda = s.agenda := rfl
@[simp] theorem correct_resp : (s.correct).resp = s.resp := rfl

@[simp] theorem applyReset_params : (s.applyReset).params = s.params := rfl
@[simp] theorem applyReset_configured : (s.applyReset).configured = false := rfl
@[simp] theorem applyReset_bufBase : (s.applyReset).bufBase = 0 := rfl
@[simp] theorem applyReset_depth : (s.applyReset).depth = 0 := rfl
@[simp] theorem applyReset_itemSize : (s.applyReset).itemSize = 0 := rfl
@[simp] theorem applyReset_ovw : (s.applyReset).ovw = false := rfl
@[simp] theorem applyReset_maxIndex : (s.applyReset).maxIndex = 0xFFFF := rfl
@[simp] theorem applyReset_unused : (s.applyReset).unused = 0 := rfl
@[simp] theorem applyReset_wrIdx : (s.applyReset).wrIdx = 0 := rfl
@[simp] theorem applyReset_rdIdx : (s.applyReset).rdIdx = 0 := rfl
@[simp] theorem applyReset_ports : (s.applyReset).ports = s.params.dmaCap.map fun _ => PortState.reset := rfl
@[simp] theorem applyReset_span : (s.applyReset).span = 0 := rfl
@[simp] theorem applyReset_ghostFault : (s.applyReset).ghostFault = false := rfl
@[simp] theorem applyReset_cur : (s.applyReset).cur = 0 := rfl
@[simp] theorem applyReset_bus : (s.applyReset).bus = s.bus := rfl
@[simp] theorem applyReset_agenda : (s.applyReset).agenda = s.agenda := rfl
@[simp] theorem applyReset_resp : (s.applyReset).resp = s.resp := rfl

@[simp] theorem masterWrite_params (a : Nat) (v : Byte) : (s.masterWrite a v).params = s.params := rfl
@[simp] theorem masterWrite_configured (a : Nat) (v : Byte) : (s.masterWrite a v).configured = s.configured := rfl
@[simp] theorem masterWrite_bufBase (a : Nat) (v : Byte) : (s.masterWrite a v).bufBase = s.bufBase := rfl
@[simp] theorem masterWrite_depth (a : Nat) (v : Byte) : (s.masterWrite a v).depth = s.depth := rfl
@[simp] theorem masterWrite_itemSize (a : Nat) (v : Byte) : (s.masterWrite a v).itemSize = s.itemSize := rfl
@[simp] theorem masterWrite_ovw (a : Nat) (v : Byte) : (s.masterWrite a v).ovw = s.ovw := rfl
@[simp] theorem masterWrite_maxIndex (a : Nat) (v : Byte) : (s.masterWrite a v).maxIndex = s.maxIndex := rfl
@[simp] theorem masterWrite_unused (a : Nat) (v : Byte) : (s.masterWrite a v).unused = s.unused := rfl
@[simp] theorem masterWrite_wrIdx (a : Nat) (v : Byte) : (s.masterWrite a v).wrIdx = s.wrIdx := rfl
@[simp] theorem masterWrite_rdIdx (a : Nat) (v : Byte) : (s.masterWrite a v).rdIdx = s.rdIdx := rfl
@[simp] theorem masterWrite_ports (a : Nat) (v : Byte) : (s.masterWrite a v).ports = s.ports := rfl
@[simp] theorem masterWrite_span (a : Nat) (v : Byte) : (s.masterWrite a v).span = s.span := rfl
@[simp] theorem masterWrite_ghostFault (a : Nat) (v : Byte) : (s.masterWrite a v).ghostFault = s.ghostFault := rfl
@[simp] theorem masterWrite_cur (a : Nat) (v : Byte) : (s.masterWrite a v).cur = s.cur := rfl
@[simp] theorem masterWrite_bus (a : Nat) (v : Byte) : (s.masterWrite a v).bus = { s.bus with mem := masterStore s.params (a, v) s.bus.mem } := rfl
@[simp] theorem masterWrite_agenda (a : Nat) (v : Byte) : (s.masterWrite a v).agenda = s.agenda := rfl
@[simp] theorem masterWrite_resp (a : Nat) (v : Byte) : (s.masterWrite a v).resp = s.resp := rfl

@[simp] theorem withArgs_params (a b : U16) (x : Word) : (s.withArgs a b x).params = s.params := rfl
@[simp] theorem withArgs_configured (a b : U16) (x : Word) : (s.withArgs a b x).configured = s.configured := rfl
@[simp] theorem withArgs_bufBase (a b : U16) (x : Word) : (s.withArgs a b x).bufBase = s.bufBase := rfl
@[simp] theorem withArgs_depth (a b : U16) (x : Word) : (s.withArgs a b x).depth = s.depth := rfl
@[simp] theorem withArgs_itemSize (a b : U16) (x : Word) : (s.withArgs a b x).itemSize = s.itemSize := rfl
@[simp] theorem withArgs_ovw (a b : U16) (x : Word) : (s.withArgs a b x).ovw = s.ovw := rfl
@[simp] theorem withArgs_maxIndex (a b : U16) (x : Word) : (s.withArgs a b x).maxIndex = s.maxIndex := rfl
@[simp] theorem withArgs_unused (a b : U16) (x : Word) : (s.withArgs a b x).unused = s.unused := rfl
@[simp] theorem withArgs_wrIdx (a b : U16) (x : Word) : (s.withArgs a b x).wrIdx = s.wrIdx := rfl
@[simp] theorem withArgs_rdIdx (a b : U16) (x : Word) : (s.withArgs a b x).rdIdx = s.rdIdx := rfl
@[simp] theorem withArgs_ports (a b : U16) (x : Word) : (s.withArgs a b x).ports = s.ports.modify s.cur fun p => { p with argA := a, argB := b, argAddr := x } := rfl
@[simp] theorem withArgs_span (a b : U16) (x : Word) : (s.withArgs a b x).span = s.span := rfl
@[simp] theorem withArgs_ghostFault (a b : U16) (x : Word) : (s.withArgs a b x).ghostFault = s.ghostFault := rfl
@[simp] theorem withArgs_cur (a b : U16) (x : Word) : (s.withArgs a b x).cur = s.cur := rfl
@[simp] theorem withArgs_bus (a b : U16) (x : Word) : (s.withArgs a b x).bus = s.bus := rfl
@[simp] theorem withArgs_agenda (a b : U16) (x : Word) : (s.withArgs a b x).agenda = s.agenda := rfl
@[simp] theorem withArgs_resp (a b : U16) (x : Word) : (s.withArgs a b x).resp = s.resp := rfl

end Sys2Proof.Machine.State
end

