-- ==== Sys2Proof/Laws/Memory.lean ====
section
/-! SUPPORT. The laws of memory: a read after a write, and that every memory operation keeps the canonical form and the bound
on addresses. -/

namespace Sys2Proof.Machine

open Sys2Proof

namespace Memory

theorem read_write_same (m : List Host.Cell) (a : Nat) (b : Byte) : read (write m a b) a = some b := by
  induction m with
  | nil => simp [write, read]
  | cons c m ih =>
    obtain ⟨x, v⟩ := c
    unfold write
    split
    · simp [read]
    · split
      · simp [read]
      · simp_all [read]

theorem read_write_other (m : List Host.Cell) {a a' : Nat} (b : Byte) (h : a' ≠ a) :
    read (write m a b) a' = read m a' := by
  induction m with
  | nil => simp [write, read, h]
  | cons c m ih =>
    obtain ⟨x, v⟩ := c
    unfold write
    split
    · simp [read, h]
    · split
      · subst_vars; simp [read, h]
      · simp [read, ih]

/-- Writing at a keeps every address of the list and adds none but a. -/
theorem mem_write {m : List Host.Cell} {a : Nat} {b : Byte} {c : Host.Cell} (h : c ∈ write m a b) :
    c = (a, b) ∨ c ∈ m := by
  induction m with
  | nil => simpa [write] using h
  | cons d m ih =>
    obtain ⟨x, v⟩ := d
    unfold write at h
    split at h
    · simpa using h
    · split at h
      · grind
      · grind

theorem wf_write {m : List Host.Cell} (a : Nat) (b : Byte) (h : wf m) : wf (write m a b) := by
  induction m with
  | nil => simp [write, wf]
  | cons d m ih =>
    obtain ⟨x, v⟩ := d
    rw [wf, List.pairwise_cons] at h
    unfold write
    split
    · rw [wf, List.pairwise_cons, List.pairwise_cons]
      exact ⟨by grind, h⟩
    · split
      · rw [wf, List.pairwise_cons]
        exact ⟨by grind, h.2⟩
      · rw [wf, List.pairwise_cons]
        refine ⟨fun c hc => ?_, ih h.2⟩
        rcases mem_write hc with rfl | hc
        · simp only; omega
        · exact h.1 c hc

theorem bound_write {m : List Host.Cell} {n a : Nat} (b : Byte) (ha : a < n) (h : ∀ c ∈ m, c.1 < n) :
    ∀ c ∈ write m a b, c.1 < n := by
  intro c hc
  rcases mem_write hc with rfl | hc
  · exact ha
  · exact h c hc

end Memory

/-- Memory is canonical and every address it lists is below n. -/
def MemOk (n : Nat) (m : List Host.Cell) : Prop := Memory.wf m ∧ ∀ c ∈ m, c.1 < n

theorem MemOk.write {n a : Nat} {m : List Host.Cell} (h : MemOk n m) (ha : a < n) (b : Byte) :
    MemOk n (Memory.write m a b) :=
  ⟨Memory.wf_write a b h.1, Memory.bound_write b ha h.2⟩

theorem space_pos (P : Params) : 0 < P.space := Nat.two_pow_pos _

theorem MemOk.masterStore {P : Params} {m : List Host.Cell} (c : Host.Cell) (h : MemOk P.space m) :
    MemOk P.space (masterStore P c m) := by
  unfold Machine.masterStore
  simp only
  split
  · exact h.write (Nat.mod_lt _ (space_pos P)) _
  · exact h

theorem MemOk.masterStores {P : Params} (cs : List Host.Cell) :
    ∀ {m : List Host.Cell}, MemOk P.space m → MemOk P.space (cs.foldl (fun m c => Machine.masterStore P c m) m) := by
  induction cs with
  | nil => exact fun h => h
  | cons c cs ih => exact fun h => ih (h.masterStore c)

theorem MemOk.storeLanes {P : Params} (as : List Nat) :
    ∀ (bs : List Byte) {m : List Host.Cell}, (∀ a ∈ as, a < P.space) → MemOk P.space m →
      MemOk P.space (storeLanes P as bs m) := by
  induction as with
  | nil => intro bs m _ h; simpa [Machine.storeLanes] using h
  | cons a as ih =>
    intro bs m ha h
    cases bs with
    | nil => simpa [Machine.storeLanes] using h
    | cons b bs =>
      rw [Machine.storeLanes]
      refine ih bs (fun x hx => ha x (List.mem_cons_of_mem _ hx)) ?_
      split
      · exact h.write (ha a List.mem_cons_self) b
      · exact h

theorem masterStore_read_other {P : Params} {m : List Host.Cell} {c : Host.Cell} {a : Nat} (h : a ≠ c.1 % P.space) :
    Memory.read (masterStore P c m) a = Memory.read m a := by
  unfold masterStore
  simp only
  split
  · exact Memory.read_write_other _ _ h
  · rfl

theorem masterStores_read_other {P : Params} {a : Nat} (cs : List Host.Cell) :
    ∀ {m : List Host.Cell}, (∀ c ∈ cs, a ≠ c.1 % P.space) →
      Memory.read (cs.foldl (fun m c => masterStore P c m) m) a = Memory.read m a := by
  induction cs with
  | nil => exact fun _ => rfl
  | cons c cs ih =>
    intro m h
    rw [List.foldl_cons, ih fun d hd => h d (List.mem_cons_of_mem _ hd),
      masterStore_read_other (h c List.mem_cons_self)]

theorem storeLanes_read_other {P : Params} {a : Nat} (as : List Nat) :
    ∀ (bs : List Byte) {m : List Host.Cell}, a ∉ as →
      Memory.read (storeLanes P as bs m) a = Memory.read m a := by
  induction as with
  | nil => intro bs m _; simp [storeLanes]
  | cons x as ih =>
    intro bs m h
    cases bs with
    | nil => simp [storeLanes]
    | cons b bs =>
      rw [storeLanes, ih bs fun hx => h (List.mem_cons_of_mem _ hx)]
      split
      · exact Memory.read_write_other _ _ fun e => h (e ▸ List.mem_cons_self)
      · rfl

end Sys2Proof.Machine
end

