-- ==== Sys2Proof/Laws/Bus.lean ====
section
/-! SUPPORT. What one access of the memory port can do, said once: it keeps the devices' and masters' scripts but for what it
takes of them, records one access, and changes memory only at its own bytes and where another master writes. -/

namespace Sys2Proof.Machine

open Sys2Proof

/-- Lane j of a word is its bits [8j+7:8j], as a number. -/
theorem lane_toNat (w : Word) (j : Nat) : (lane w j).toNat = w.toNat / 2 ^ (8 * j) % 2 ^ 8 := by
  simp [lane, Nat.shiftRight_eq_div_pow]

theorem laneAddrs_lt {P : Params} {a n x : Nat} (h : x ∈ laneAddrs P a n) : x < P.space := by
  obtain ⟨j, -, rfl⟩ := List.mem_map.1 h
  exact Nat.mod_lt _ (space_pos P)

@[simp] theorem laneAddrs_length (P : Params) (a n : Nat) : (laneAddrs P a n).length = n := by
  simp [laneAddrs]

/-- The addresses other masters are still to write, in a bus. -/
def Bus.raced (P : Params) (b : Bus) : List Nat := b.race.flatten.map fun c => c.1 % P.space

namespace Bus

@[simp] theorem arrive_log (P : Params) (b : Bus) : (b.arrive P).log = b.log := by
  unfold arrive; split <;> rfl

@[simp] theorem arrive_rx (P : Params) (b : Bus) : (b.arrive P).rx = b.rx := by
  unfold arrive; split <;> rfl

@[simp] theorem arrive_drawn (P : Params) (b : Bus) : (b.arrive P).drawn = b.drawn := by
  unfold arrive; split <;> rfl

@[simp] theorem arrive_race (P : Params) (b : Bus) : (b.arrive P).race = b.race.tail := by
  unfold arrive; split <;> simp_all

/-- With no other master in the way nothing arrives. -/
theorem arrive_of_no_race (P : Params) {b : Bus} (h : b.race = []) : b.arrive P = b := by
  simp [arrive, h]

theorem arrive_memOk {P : Params} {b : Bus} (h : MemOk P.space b.mem) : MemOk P.space (b.arrive P).mem := by
  unfold arrive
  split
  · exact h
  · exact h.masterStores _

theorem arrive_read_other {P : Params} {b : Bus} {a : Nat} (h : a ∉ b.raced P) :
    Memory.read (b.arrive P).mem a = Memory.read b.mem a := by
  unfold arrive
  split
  · rfl
  · rename_i ws rest e
    refine masterStores_read_other ws fun c hc he => h ?_
    rw [raced, e]
    exact List.mem_map.2 ⟨c, by simp [hc], he.symm⟩

theorem raced_tail {P : Params} {b b' : Bus} {a : Nat} (e : b'.race = b.race.tail) (h : a ∉ b.raced P) :
    a ∉ b'.raced P := by
  intro ha
  apply h
  rw [raced] at ha ⊢
  rw [e] at ha
  obtain ⟨c, hc, rfl⟩ := List.mem_map.1 ha
  refine List.mem_map.2 ⟨c, ?_, rfl⟩
  obtain ⟨l, hl, hcl⟩ := List.mem_flatten.1 hc
  exact List.mem_flatten.2 ⟨l, List.mem_of_mem_tail hl, hcl⟩

@[simp] theorem deviceAnswer_mem (a : Nat) (b : Bus) : (b.deviceAnswer a).2.mem = b.mem := by
  unfold deviceAnswer; split <;> rfl

@[simp] theorem deviceAnswer_race (a : Nat) (b : Bus) : (b.deviceAnswer a).2.race = b.race := by
  unfold deviceAnswer; split <;> rfl

@[simp] theorem deviceAnswer_log (a : Nat) (b : Bus) : (b.deviceAnswer a).2.log = b.log := by
  unfold deviceAnswer; split <;> rfl

/-- A read access is answered exactly where all its bytes are readable (20_memory.md R54). -/
theorem readAccess_isSome (P : Params) (a n : Nat) (b : Bus) :
    (b.readAccess P a n).isSome = (laneAddrs P a n).all (readable P) := by
  unfold readAccess
  simp only
  split
  · split <;> simp_all
  · simp_all

/-- A write access is taken exactly where all its bytes are writable (20_memory.md R54). -/
theorem writeAccess_isSome (P : Params) (a : Nat) (bytes : List Byte) (b : Bus) :
    (b.writeAccess P a bytes).isSome = (laneAddrs P a bytes.length).all (writable P) := by
  unfold writeAccess
  simp only
  split <;> simp_all

/-- Everything a read access can do. -/
theorem readAccess_cases {P : Params} {a n : Nat} {b : Bus} {r : List Byte × Bus} (h : b.readAccess P a n = some r) :
    (laneAddrs P a n).all (readable P) = true ∧ r.1.length = n ∧ r.2.mem = (b.arrive P).mem ∧
      r.2.race = b.race.tail ∧ r.2.log = .rd (a % P.space) r.1 :: b.log ∧
      (((laneAddrs P a n).any (isDevice P) = false ∧ r.1 = (laneAddrs P a n).map (b.arrive P).byteAt ∧
          r.2.rx = b.rx ∧ r.2.drawn = b.drawn) ∨
        ((laneAddrs P a n).any (isDevice P) = true ∧
          r.1 = (List.range n).map (lane ((b.arrive P).deviceAnswer (a % P.space)).1) ∧
          r.2.rx = ((b.arrive P).deviceAnswer (a % P.space)).2.rx ∧
          r.2.drawn = ((b.arrive P).deviceAnswer (a % P.space)).2.drawn)) := by
  unfold readAccess at h
  simp only at h
  split at h
  · rename_i hr
    split at h
    · rename_i hd
      obtain rfl := Option.some.inj h
      exact ⟨hr, by simp, by simp, by simp, by simp, .inr ⟨hd, rfl, rfl, rfl⟩⟩
    · rename_i hd
      obtain rfl := Option.some.inj h
      exact ⟨hr, by simp, rfl, by simp, by simp, .inl ⟨by simpa using hd, rfl, by simp, by simp⟩⟩
  · exact absurd h (by simp)

/-- Everything a write access can do. -/
theorem writeAccess_cases {P : Params} {a : Nat} {bytes : List Byte} {b b' : Bus} (h : b.writeAccess P a bytes = some b') :
    (laneAddrs P a bytes.length).all (writable P) = true ∧
      b'.mem = storeLanes P (laneAddrs P a bytes.length) bytes (b.arrive P).mem ∧
      b'.race = b.race.tail ∧ b'.log = .wr (a % P.space) bytes :: b.log ∧ b'.rx = b.rx ∧ b'.drawn = b.drawn := by
  unfold writeAccess at h
  simp only at h
  split at h
  · rename_i hw
    obtain rfl := Option.some.inj h
    exact ⟨hw, rfl, by simp, by simp, by simp, by simp⟩
  · exact absurd h (by simp)

theorem readAccess_memOk {P : Params} {a n : Nat} {b : Bus} {r : List Byte × Bus} (hb : MemOk P.space b.mem)
    (h : b.readAccess P a n = some r) : MemOk P.space r.2.mem := by
  obtain ⟨-, -, hm, -⟩ := readAccess_cases h
  rw [hm]
  exact arrive_memOk hb

theorem writeAccess_memOk {P : Params} {a : Nat} {bytes : List Byte} {b b' : Bus} (hb : MemOk P.space b.mem)
    (h : b.writeAccess P a bytes = some b') : MemOk P.space b'.mem := by
  obtain ⟨-, hm, -⟩ := writeAccess_cases h
  rw [hm]
  exact (arrive_memOk hb).storeLanes _ _ fun x hx => laneAddrs_lt hx

end Bus

end Sys2Proof.Machine
end

