-- ==== Sys2Proof/Laws/Copy.lean ====
section
/-! SUPPORT. One rule for the copy loop, and what every copy keeps. -/

namespace Sys2Proof.Machine

open Sys2Proof

@[simp] theorem upTo_zero (body : Nat → Bus → Option Bus) (b : Bus) : upTo body 0 b = some b := rfl

theorem upTo_succ (body : Nat → Bus → Option Bus) (n : Nat) (b : Bus) :
    upTo body (n + 1) b = (upTo body n b).bind (body n) := rfl

/-- What holds before the first pass and is kept by every pass holds after the loop; the property may speak of the number of
passes made. -/
theorem upTo_rule {body : Nat → Bus → Option Bus} (I : Nat → Bus → Prop) {n : Nat}
    (pass : ∀ k b b', k < n → I k b → body k b = some b' → I (k + 1) b') {b b' : Bus} (h0 : I 0 b)
    (h : upTo body n b = some b') : I n b' := by
  induction n generalizing b' with
  | zero => exact Option.some.inj h ▸ h0
  | succ n ih =>
    rw [upTo_succ, Option.bind_eq_some_iff] at h
    obtain ⟨c, hc, hb⟩ := h
    exact pass n c b' (Nat.lt_succ_self n) (ih (fun k b b' hk => pass k b b' (Nat.lt_succ_of_lt hk)) hc) hb

/-- The loop runs to its end when every pass does, under a property the passes keep. -/
theorem upTo_isSome {body : Nat → Bus → Option Bus} (I : Nat → Bus → Prop) {n : Nat}
    (pass : ∀ k b, k < n → I k b → ∃ b', body k b = some b' ∧ I (k + 1) b') {b : Bus} (h0 : I 0 b) :
    ∃ b', upTo body n b = some b' ∧ I n b' := by
  induction n with
  | zero => exact ⟨b, rfl, h0⟩
  | succ n ih =>
    obtain ⟨c, hc, hi⟩ := ih fun k b hk => pass k b (Nat.lt_succ_of_lt hk)
    obtain ⟨b', hb, hi'⟩ := pass n c (Nat.lt_succ_self n) hi
    exact ⟨b', by rw [upTo_succ, hc]; exact hb, hi'⟩

/-- A property kept by every admitted access is kept by PULL's gathering of lanes. -/
theorem pullLanes_rule {g : Store} {rel0 L i : Nat} (I : Bus → Prop)
    (rd : ∀ a n b r, I b → b.readAccess g.params a n = some r → I r.2) (k : Nat) :
    ∀ {b : Bus} {r : List Byte × Bus}, I b → pullLanes g rel0 L i k b = some r → I r.2 ∧ r.1.length = k := by
  induction k with
  | zero =>
    intro b r hb h
    obtain rfl := Option.some.inj h
    exact ⟨hb, rfl⟩
  | succ k ih =>
    intro b r hb h
    rw [pullLanes, Option.bind_eq_some_iff] at h
    obtain ⟨q, hq, h⟩ := h
    obtain ⟨hI, hl⟩ := ih hb hq
    split at h
    · obtain ⟨p, hp, rfl⟩ := Option.map_eq_some_iff.1 h
      have hlen := (Bus.readAccess_cases hp).2.1
      exact ⟨rd _ _ _ p hI hp, by simp [hl, hlen]⟩
    · obtain rfl := Option.some.inj h
      exact ⟨hI, by simp [hl]⟩

/-- A property kept by every admitted access is kept by PUSH. -/
theorem push_rule {g : Store} {cm : CopyMode} {xa rel0 n skip : Nat} (I : Bus → Prop)
    (rd : ∀ a n b r, I b → b.readAccess g.params a n = some r → I r.2)
    (wr : ∀ a bytes b b', I b → b.writeAccess g.params a bytes = some b' → I b') {b b' : Bus} (h0 : I b)
    (h : push g cm xa rel0 n skip b = some b') : I b' := by
  cases cm with
  | inc =>
    refine upTo_rule (fun _ => I) (fun k c c' _ hc hb => ?_) h0 h
    obtain ⟨r, hr, hw⟩ := Option.bind_eq_some_iff.1 hb
    exact wr _ _ _ _ (rd _ _ _ _ hc hr) hw
  | const =>
    refine upTo_rule (fun _ => I) (fun k c c' _ hc hb => ?_) h0 h
    obtain ⟨r, hr, hw⟩ := Option.bind_eq_some_iff.1 hb
    refine upTo_rule (fun _ => I) (fun j d d' _ hd hb => ?_) (rd _ _ _ _ hc hr) hw
    split at hb
    · exact wr _ _ _ _ hd hb
    · exact Option.some.inj hb ▸ hd

/-- A property kept by every admitted access is kept by PULL. -/
theorem pull_rule {g : Store} {cm : CopyMode} {xa rel0 n : Nat} (I : Bus → Prop)
    (rd : ∀ a n b r, I b → b.readAccess g.params a n = some r → I r.2)
    (wr : ∀ a bytes b b', I b → b.writeAccess g.params a bytes = some b' → I b') {b b' : Bus} (h0 : I b)
    (h : pull g cm xa rel0 n b = some b') : I b' := by
  cases cm with
  | inc =>
    refine upTo_rule (fun _ => I) (fun k c c' _ hc hb => ?_) h0 h
    obtain ⟨r, hr, hw⟩ := Option.bind_eq_some_iff.1 hb
    exact wr _ _ _ _ (rd _ _ _ _ hc hr) hw
  | const =>
    refine upTo_rule (fun _ => I) (fun k c c' _ hc hb => ?_) h0 h
    obtain ⟨r, hr, hw⟩ := Option.bind_eq_some_iff.1 hb
    exact wr _ _ _ _ (pullLanes_rule I rd _ hc hr).1 hw

/-- PUSH keeps memory canonical and in range. -/
theorem push_memOk {g : Store} {cm : CopyMode} {xa rel0 n skip : Nat} {b b' : Bus} (hb : MemOk g.params.space b.mem)
    (h : push g cm xa rel0 n skip b = some b') : MemOk g.params.space b'.mem :=
  push_rule (fun b => MemOk g.params.space b.mem) (fun _ _ _ _ => Bus.readAccess_memOk)
    (fun _ _ _ _ => Bus.writeAccess_memOk) hb h

/-- PULL keeps memory canonical and in range. -/
theorem pull_memOk {g : Store} {cm : CopyMode} {xa rel0 n : Nat} {b b' : Bus} (hb : MemOk g.params.space b.mem)
    (h : pull g cm xa rel0 n b = some b') : MemOk g.params.space b'.mem :=
  pull_rule (fun b => MemOk g.params.space b.mem) (fun _ _ _ _ => Bus.readAccess_memOk)
    (fun _ _ _ _ => Bus.writeAccess_memOk) hb h

@[simp] theorem afterCopy_none (s : State) (k : State → Host.Outcome State Fault Refusal) :
    afterCopy s none k = .fault .notAdmitted := rfl

@[simp] theorem afterCopy_some (s : State) (b : Bus) (k : State → Host.Outcome State Fault Refusal) :
    afterCopy s (some b) k = k (s.withBus b) := rfl

end Sys2Proof.Machine
end

