-- ==== Sys2Proof/Laws/Ops.lean ====
section
/-! SUPPORT. What the shared operations can do, said once: the prologue, CHECK_CORRECT, completing a command, WSEL, and the
engine's performing of a command. -/

namespace Sys2Proof.Machine

open Sys2Proof

/-! ## Command words -/

theorem runWord_of_instr {w : Word} {i : Instr} (h : decode w = .instr i) (s : State) : runWord w s = exec i s := by
  simp [runWord, h]

theorem runWord_of_illegal {w : Word} {why : DecodeError} (h : decode w = .illegal why) (s : State) :
    runWord w s = .next (s.complete .illegal 0 0) := by
  simp [runWord, h, State.raiseError]

/-! ## The prologue -/

theorem prologue_of_passes {i : Instr} {s : State} (body : State → Host.Outcome State Fault Refusal) (h : Passes i s) :
    prologue i s body = body s := by
  obtain ⟨hc, hm, hg, ha⟩ := h
  unfold prologue
  rw [if_neg (by omega), if_neg, if_neg, if_neg]
  · simpa using ha
  · grind
  · grind

/-- Everything the prologue can do. -/
theorem prologue_cases (i : Instr) (s : State) (body : State → Host.Outcome State Fault Refusal) :
    (s.ports.length ≤ s.cur ∧ prologue i s body = .fault .noSuchPort) ∨
    (s.cur < s.ports.length ∧ ¬ Passes i s ∧
      ∃ c, c ≠ .ok ∧ prologue i s body = .next (s.raiseError c)) ∨
    (Passes i s ∧ prologue i s body = body s) := by
  by_cases hc : s.ports.length ≤ s.cur
  · exact .inl ⟨hc, by simp [prologue, hc]⟩
  · right
    by_cases hp : Passes i s
    · exact .inr ⟨hp, prologue_of_passes body hp⟩
    · left
      refine ⟨by omega, hp, ?_⟩
      unfold prologue
      rw [if_neg hc]
      split
      · exact ⟨_, by decide, rfl⟩
      · split
        · exact ⟨_, by decide, rfl⟩
        · split
          · exact ⟨_, by decide, rfl⟩
          · exfalso
            apply hp
            refine ⟨by omega, ?_, ?_, ?_⟩ <;> grind

/-! ## Completing a command -/

theorem complete_ports_get_other {s : State} {c : Code} {v : U16} {q : Word} {p : Nat} (h : p ≠ s.cur) :
    (s.complete c v q).ports[p]? = s.ports[p]? := by
  simp [Ne.symm h]

theorem complete_ports_get_cur {s : State} {c : Code} {v : U16} {q : Word} (h : s.cur < s.ports.length) :
    (s.complete c v q).ports[s.cur]? =
      some { s.curPort with code := c, resVal := v, resPtr := q, pending := none } := by
  simp [State.curPort, List.getElem?_eq_getElem h, List.getD_eq_getElem?_getD]

@[simp] theorem complete_ports_length (s : State) (c : Code) (v : U16) (q : Word) :
    (s.complete c v q).ports.length = s.ports.length := by
  simp

/-! ## CHECK_CORRECT -/

/-- Everything CHECK_CORRECT can do (42_overflow.md R141). -/
theorem checkCorrect_cases (s : State) :
    (ovfp s.depth s.rawCount = true ∧
      checkCorrect s = { st := s.correct, r := s.bwd s.wrIdx s.depth, c := s.depth }) ∨
    (ovfp s.depth s.rawCount = false ∧ checkCorrect s = { st := s, r := s.rdIdx, c := s.rawCount }) := by
  unfold checkCorrect
  cases h : ovfp s.depth s.rawCount <;> simp

theorem checkCorrect_c (s : State) : (checkCorrect s).c = cnt s.depth s.rawCount := by
  rcases checkCorrect_cases s with ⟨h, e⟩ | ⟨h, e⟩ <;> rw [e] <;>
    simp only [ovfp, decide_eq_true_eq, decide_eq_false_iff_not, BitVec.not_lt] at h <;> simp only [cnt]
  · rw [if_neg (by bv_omega)]
  · rw [if_pos h]

theorem checkCorrect_r (s : State) : (checkCorrect s).r = correctedRd s := by
  rcases checkCorrect_cases s with ⟨h, e⟩ | ⟨h, e⟩ <;> (rw [e]; simp [correctedRd, h])

theorem checkCorrect_rdIdx (s : State) : (checkCorrect s).st.rdIdx = (checkCorrect s).r := by
  rcases checkCorrect_cases s with ⟨-, e⟩ | ⟨-, e⟩ <;> simp [e]

/-- CHECK_CORRECT changes RD_IDX and SPAN and nothing else. -/
theorem checkCorrect_frame (s : State) :
    (checkCorrect s).st = { s with rdIdx := (checkCorrect s).st.rdIdx, span := (checkCorrect s).st.span } := by
  rcases checkCorrect_cases s with ⟨-, e⟩ | ⟨-, e⟩ <;> simp [e, State.correct, State.setRd]

/-! ## The engine -/

/-- Everything performing a port's command can do (10_state.md R32, 20_memory.md R54). -/
theorem perform_cases (p : Nat) (s : State) :
    perform p s = none ∨
    ∃ port w, s.ports[p]? = some port ∧ port.pending = some w ∧
      perform p s = some (runWord w { s with cur := p }) ∧ runWord w { s with cur := p } ≠ .fault .notAdmitted := by
  unfold perform
  cases hp : s.ports[p]? with
  | none => simp
  | some port =>
    cases hw : port.pending with
    | none => simp [hw]
    | some w =>
      simp only [Option.bind_some, hw]
      split
      · exact .inl rfl
      · rename_i h
        exact .inr ⟨port, w, rfl, hw, rfl, h⟩

end Sys2Proof.Machine
end

