-- ==== Sys2Proof/Laws/PerInstr.lean ====
section
/-! SUPPORT. Facts about every instruction as syntax, one lemma a constructor (LAWS.json). -/

namespace Sys2Proof.Laws.OneRow

open Sys2Proof

/-- The command word of an instruction spells its row of spec/opcode_table.json: under the row's mask it is the row's match
(30_encoding.md R85), which is the operation code alone. -/
def Statement (i : Instr) : Prop := encode i &&& i.rowMask = BitVec.ofNat 32 i.opc

theorem configure (ow : Bool) : Statement (.configure ow) := by cases ow <;> (unfold Statement; decide)
theorem clear : Statement .clear := by unfold Statement; decide
theorem setOverwritable (ow : Bool) : Statement (.setOverwritable ow) := by cases ow <;> (unfold Statement; decide)
theorem write : Statement .write := by unfold Statement; decide
theorem writeN (cm : CopyMode) : Statement (.writeN cm) := by cases cm <;> (unfold Statement; decide)
theorem read : Statement .read := by unfold Statement; decide
theorem readN (cm : CopyMode) : Statement (.readN cm) := by cases cm <;> (unfold Statement; decide)
theorem peekAt : Statement .peekAt := by unfold Statement; decide
theorem peekAtN (cm : CopyMode) : Statement (.peekAtN cm) := by cases cm <;> (unfold Statement; decide)
theorem getLinearReadInfo : Statement .getLinearReadInfo := by unfold Statement; decide
theorem getLinearWriteInfo : Statement .getLinearWriteInfo := by unfold Statement; decide
theorem correctReadPointer : Statement .correctReadPointer := by unfold Statement; decide
theorem count : Statement .count := by unfold Statement; decide
theorem empty : Statement .empty := by unfold Statement; decide
theorem full : Statement .full := by unfold Statement; decide
theorem remaining : Statement .remaining := by unfold Statement; decide
theorem overflowed : Statement .overflowed := by unfold Statement; decide
theorem advanceWritePointer : Statement .advanceWritePointer := by unfold Statement; decide
theorem advanceReadPointer : Statement .advanceReadPointer := by unfold Statement; decide
theorem backwardWritePointer : Statement .backwardWritePointer := by unfold Statement; decide
theorem backwardReadPointer : Statement .backwardReadPointer := by unfold Statement; decide

end Sys2Proof.Laws.OneRow
end

