-- ==== Sys2Proof/Tests/Slice0.lean ====
section
/-! SUPPORT. The model's own tests. Expected values come from the spec: the opcode map (30_encoding.md R84, R85) and the
vectors of 95_test_vectors.md, named by their section. The last part shows, for each statement with hypotheses, a concrete
case that meets them. -/

namespace Sys2Proof.Tests

open Sys2Proof Sys2Proof.Machine

/-! ## Helpers -/

/-- A configured block as 95_test_vectors.md writes it, (D, isz, ovw; w, r) with BUF_BASE = 0x1000, about to perform a command
of the DMA port with operands a, b, x; SPAN is the count of the cursors. -/
def fifo (D isz w r : Nat) (a b : Nat := 0) (x : Nat := 0) (ovw : Bool := false) (mem : List Host.Cell := [])
    (P : Params := Params.default) (cur : Nat := 1) : State :=
  let d := BitVec.ofNat 16 D
  let port : PortState :=
    { PortState.reset with argA := BitVec.ofNat 16 a, argB := BitVec.ofNat 16 b, argAddr := BitVec.ofNat 32 x }
  { State.resetWith P with
    configured := true, bufBase := 0x1000, depth := d, itemSize := BitVec.ofNat 16 isz, ovw := ovw
    maxIndex := maxIndexOf d, unused := unusedOf d
    wrIdx := BitVec.ofNat 16 w, rdIdx := BitVec.ofNat 16 r
    span := (rawcnt (unusedOf d) (BitVec.ofNat 16 w) (BitVec.ofNat 16 r)).toNat
    ports := [port, port], cur := cur, bus := { Bus.initial with mem := mem } }

/-- The outcome is a next state of which f holds. -/
def gives (o : Host.Outcome State Fault Refusal) (f : State → Bool) : Bool :=
  match o with
  | .next t => f t
  | .fault _ => false
  | .refused _ => false

/-- The next state of an outcome, d where there is none. -/
def nextOf (o : Host.Outcome State Fault Refusal) (d : State) : State :=
  match o with
  | .next t => t
  | .fault _ => d
  | .refused _ => d

theorem eq_next_of_gives {o : Host.Outcome State Fault Refusal} {f : State → Bool} (d : State)
    (h : gives o f = true) : o = .next (nextOf o d) := by
  cases o <;> simp_all [gives, nextOf]

/-- The result triple (code, RES_VAL, RES_PTR) of the issuing port. -/
def result (t : State) : Nat × Nat × Nat :=
  (t.curPort.code.toNat, t.curPort.resVal.toNat, t.curPort.resPtr.toNat)

/-- The pair (WR_IDX, RD_IDX). -/
def cursors (t : State) : Nat × Nat := (t.wrIdx.toNat, t.rdIdx.toNat)

/-- The n bytes written at addresses from a on. -/
def bytes (t : State) (a n : Nat) : List (Option Byte) := (List.range n).map fun j => Memory.read t.bus.mem (a + j)

/-- The 26 legal commands. -/
def allInstrs : List Instr :=
  [.configure false, .configure true, .clear, .setOverwritable false, .setOverwritable true, .write, .writeN .inc,
    .writeN .const, .read, .readN .inc, .readN .const, .peekAt, .peekAtN .inc, .peekAtN .const] ++
  [.getLinearReadInfo, .getLinearWriteInfo, .correctReadPointer, .count, .empty, .full, .remaining, .overflowed,
    .advanceWritePointer, .advanceReadPointer, .backwardWritePointer, .backwardReadPointer]

/-- A platform with a device register at 0x6000 and nothing at 0x7000 to 0x7FFF. -/
def devParams : Params :=
  { Params.default with map := [⟨0x6000, 4, .device⟩, ⟨0x7000, 0x1000, .absent⟩] }

/-! ## Well-formedness: a good statement and one that fails each check (30_encoding.md R88) -/

theorem test_wf_good :
    ({ port := 1, op := .writeN, const := true, n := some 65535, src := some 0x6000 } : Stmt).wf Params.default = true := by
  decide

theorem test_wf_refuses_port :
    ({ port := 2, op := .count } : Stmt).portOk Params.default = false ∧
    ({ port := 2, op := .count } : Stmt).wf Params.default = false := by decide

theorem test_wf_refuses_const :
    ({ port := 0, op := .write, const := true } : Stmt).constOk = false ∧
    ({ port := 0, op := .write, const := true } : Stmt).wf Params.default = false := by decide

theorem test_wf_refuses_operand_name :
    ({ port := 0, op := .read, n := some 1 } : Stmt).namesOk = false ∧
    ({ port := 0, op := .read, n := some 1 } : Stmt).wf Params.default = false := by decide

theorem test_wf_refuses_value :
    ({ port := 0, op := .configure, depth := some 65536 } : Stmt).valuesOk = false ∧
    ({ port := 0, op := .configure, depth := some 65536 } : Stmt).wf Params.default = false := by decide

/-! ## Decoding: one word a row of the opcode map, written out from 30_encoding.md R81 and R84 -/

theorem test_decode_configuration :
    decode 0b00000000000000000000000000000001 = .instr (.configure false) ∧
    decode 0b00000000000000000000001000000001 = .instr (.configure true) ∧
    decode 0b00000000000000000000000000000010 = .instr .clear ∧
    decode 0b00000000000000000000000000000011 = .instr (.setOverwritable false) ∧
    decode 0b00000000000000000000001000000011 = .instr (.setOverwritable true) := by decide

theorem test_decode_write_path :
    decode 0b00000000000000000000000000000100 = .instr .write ∧
    decode 0b00000000000000000000000000000101 = .instr (.writeN .inc) ∧
    decode 0b00000000000000000000000100000101 = .instr (.writeN .const) := by decide

theorem test_decode_read_path :
    decode 0b00000000000000000000000000001000 = .instr .read ∧
    decode 0b00000000000000000000000000001001 = .instr (.readN .inc) ∧
    decode 0b00000000000000000000000100001001 = .instr (.readN .const) ∧
    decode 0b00000000000000000000000000001010 = .instr .peekAt ∧
    decode 0b00000000000000000000000000001011 = .instr (.peekAtN .inc) ∧
    decode 0b00000000000000000000000100001011 = .instr (.peekAtN .const) := by decide

theorem test_decode_linear_and_overflow :
    decode 0b00000000000000000000000000001100 = .instr .getLinearReadInfo ∧
    decode 0b00000000000000000000000000001101 = .instr .getLinearWriteInfo ∧
    decode 0b00000000000000000000000000001110 = .instr .correctReadPointer := by decide

theorem test_decode_queries :
    decode 0b00000000000000000000000000010000 = .instr .count ∧
    decode 0b00000000000000000000000000010001 = .instr .empty ∧
    decode 0b00000000000000000000000000010010 = .instr .full ∧
    decode 0b00000000000000000000000000010011 = .instr .remaining ∧
    decode 0b00000000000000000000000000010100 = .instr .overflowed := by decide

theorem test_decode_manual_pointers :
    decode 0b00000000000000000000000000011000 = .instr .advanceWritePointer ∧
    decode 0b00000000000000000000000000011001 = .instr .advanceReadPointer ∧
    decode 0b00000000000000000000000000011010 = .instr .backwardWritePointer ∧
    decode 0b00000000000000000000000000011011 = .instr .backwardReadPointer := by decide

/-- 30_encoding.md R83, R86 and L2.9: one word for each reason a word is illegal. -/
theorem test_decode_refuses :
    decode 0x00000000 = .illegal .reservedOpcode ∧ decode 0x0000001F = .illegal .reservedOpcode ∧
    decode 0x00000020 = .illegal .reservedBits ∧ decode 0x80000010 = .illegal .reservedBits ∧
    decode 0x00000118 = .illegal .copyModeNotAllowed ∧ decode 0x00000205 = .illegal .overwritableNotAllowed := by decide

theorem test_table_word :
    decodeTableWord 32 0x109 = some (.readN .const) ∧ decodeTableWord 32 0x104 = none := by decide

/-! ## Assembling: the host writes 95_test_vectors.md L3 gives -/

theorem test_assemble_configure :
    assemble Params.default { port := 0, op := .configure, depth := some 4, isize := some 1, base := some 0x1000 } =
      [.hostWrite 0xF0000004 4 4, .hostWrite 0xF0000008 4 1, .hostWrite 0xF000000C 4 0x1000,
        .hostWrite 0xF0000000 4 0x00000001] := by decide

theorem test_assemble_other_port :
    assemble Params.default { port := 1, op := .advanceWritePointer, n := some 6 } =
      [.hostWrite 0xF0000028 4 6, .hostWrite 0xF0000020 4 0x00000018] := by decide

/-- PEEK_N is PEEK_AT_N with offset 0 (30_encoding.md R89). -/
theorem test_assemble_peek_n :
    assemble Params.default { port := 0, op := .peekN, n := some 3, dst := some 0x3000 } =
      [.hostWrite 0xF0000004 4 0, .hostWrite 0xF0000008 4 3, .hostWrite 0xF000000C 4 0x3000,
        .hostWrite 0xF0000000 4 0x0000000B] := by decide

/-- One statement for each check that fails assembles to nothing (log 22). -/
theorem test_assemble_refuses :
    assemble Params.default { port := 2, op := .count } = [] ∧
    assemble Params.default { port := 0, op := .write, const := true } = [] ∧
    assemble Params.default { port := 0, op := .read, n := some 1 } = [] ∧
    assemble Params.default { port := 0, op := .configure, depth := some 65536 } = [] := by decide

/-! ## Index arithmetic (L2.1) -/

theorem test_adv :
    adv 7 0xFFF8 7 1 = 0 ∧ adv 7 0xFFF8 6 3 = 1 ∧ adv 7 0xFFF8 0 20 = 12 ∧ adv 7 0xFFF8 12 0 = 4 ∧
    adv 7 0xFFF8 0xFFFF 1 = 0xFFF8 ∧ adv 0xFFFD 2 0xFFFD 2 = 1 := by decide

theorem test_bwd :
    bwd 7 0xFFF8 0 1 = 7 ∧ bwd 7 0xFFF8 2 4 = 6 ∧ bwd 7 0xFFF8 0 9 = 0xFFFF ∧ bwd 7 0xFFF8 6 4 = 2 ∧
    bwd 0xFFFD 2 0 1 = 0xFFFD := by decide

theorem test_rel_rawcnt :
    rel 4 7 0xFFF8 7 3 = some 2 ∧ rel 3 5 0xFFFA 4 0 = some 1 ∧ rel 0 0xFFFF 0 0 0 = none ∧
    rawcnt 0xFFF8 0 6 = 2 ∧ rawcnt 0xFFF8 0 8 = 0 ∧ rawcnt 0xFFFA 1 4 = 3 := by decide

/-! ## Commands (L2.2 to L2.9) -/

theorem test_configure_from_reset :
    gives (exec (.configure true) (State.reset.withArgs 4 1 0x1000)) (fun t =>
      result t == (0, 1, 0) && t.depth == 4 && t.itemSize == 1 && t.bufBase == 0x1000 && t.maxIndex == 7 &&
      t.unused == 0xFFF8 && t.configured && t.ovw) = true := by decide

theorem test_configure_rejects_32768 :
    gives (exec (.configure false) (fifo 4 1 3 0 32768)) (fun t =>
      result t == (0, 0, 0) && t.depth == 4 && cursors t == (3, 0)) = true := by decide

theorem test_clear :
    gives (exec .clear (fifo 4 1 6 2)) (fun t => result t == (0, 1, 0) && cursors t == (0, 0)) = true := by decide

theorem test_set_overwritable :
    gives (exec (.setOverwritable true) (fifo 4 1 0 0)) (fun t => result t == (0, 1, 0) && t.ovw) = true ∧
    gives (exec (.setOverwritable false) (fifo 4 1 0 0 (ovw := true))) (fun t => result t == (0, 1, 0) && !t.ovw)
      = true := by decide

theorem test_correct_read_pointer :
    gives (exec .correctReadPointer (fifo 4 1 3 2)) (fun t =>
      result t == (0, 1, 0) && cursors t == (3, 7) && !t.ghostFault) = true := by decide

theorem test_write :
    gives (exec .write (fifo 4 1 3 0 (x := 0x2000) (mem := [(0x2000, 4)]))) (fun t =>
      result t == (0, 1, 0) && bytes t 0x1003 1 == [some 4] && cursors t == (4, 0)) = true := by decide

theorem test_write_full :
    gives (exec .write (fifo 4 1 4 0)) (fun t => result t == (0, 0, 0) && t.bus.log == []) = true ∧
    gives (exec .write (fifo 0 1 0 0 (ovw := true))) (fun t => result t == (6, 0, 0)) = true := by decide

theorem test_write_n_wraps :
    gives (exec (.writeN .inc) (fifo 4 1 3 1 (b := 2) (x := 0x2000) (mem := [(0x2000, 0x0A), (0x2001, 0x0B)]))) (fun t =>
      result t == (0, 2, 0) && bytes t 0x1003 1 == [some 0x0A] && bytes t 0x1000 1 == [some 0x0B] && cursors t == (5, 1))
      = true := by decide

/-- L2.4, the full overwrite from device words [1,2,3,4], [5,6,7,8]. -/
theorem test_write_n_const_full_overwrite :
    gives (exec (.writeN .const) ((fifo 4 1 3 1 (b := 6) (x := 0x6000) (ovw := true) (P := devParams)).withBus
        { Bus.initial with rx := [(0x6000, 0x04030201), (0x6000, 0x08070605)] })) (fun t =>
      result t == (0, 4, 0) && bytes t 0x1000 4 == [some 6, some 3, some 4, some 5] && cursors t == (5, 1) &&
      t.bus.rx == [] && t.span == 4) = true := by decide

theorem test_read :
    gives (exec .read (fifo 4 1 3 0 (x := 0x3000) (mem := [(0x1000, 1), (0x1001, 2), (0x1002, 3)]))) (fun t =>
      result t == (0, 1, 0) && bytes t 0x3000 1 == [some 1] && cursors t == (3, 1)) = true ∧
    gives (exec .read (fifo 4 1 0 0)) (fun t => result t == (0, 0, 0) && t.bus.log == []) = true := by decide

/-- L2.5: READ_N.CONST of two 3-byte items, the second word padded with zeros. -/
theorem test_read_n_const :
    gives (exec (.readN .const) (fifo 4 3 5 3 (b := 2) (x := 0x6000) (P := devParams)
        (mem := [(0x1000, 44), (0x1001, 55), (0x1002, 66), (0x1009, 11), (0x100A, 22), (0x100B, 33)]))) (fun t =>
      result t == (0, 2, 0) && cursors t == (5, 5) &&
      t.bus.log.filter (fun x => x.shape.write) == [.wr 0x6000 [55, 66, 0, 0], .wr 0x6000 [11, 22, 33, 44]])
      = true := by decide

theorem test_read_n_corrects :
    gives (exec (.readN .inc) (fifo 4 1 6 0 (b := 0))) (fun t =>
      result t == (0, 0, 0) && cursors t == (6, 2) && t.bus.log == []) = true := by decide

theorem test_peek_at :
    gives (exec .peekAt (fifo 4 1 6 0 (a := 0) (x := 0x3000) (mem := [(0x1000, 5), (0x1001, 6), (0x1002, 3), (0x1003, 4)])))
      (fun t => result t == (0, 1, 0) && bytes t 0x3000 1 == [some 3] && cursors t == (6, 2)) = true ∧
    gives (exec .peekAt (fifo 4 1 3 0 (a := 3))) (fun t => result t == (0, 0, 0) && cursors t == (3, 0)) = true := by decide

theorem test_peek_at_n :
    gives (exec (.peekAtN .inc) (fifo 4 1 6 2 (a := 1) (b := 5) (x := 0x3000)
        (mem := [(0x1000, 5), (0x1001, 6), (0x1002, 3), (0x1003, 4)]))) (fun t =>
      result t == (0, 3, 0) && bytes t 0x3000 3 == [some 4, some 5, some 6] && cursors t == (6, 2)) = true := by decide

theorem test_linear_read :
    gives (exec .getLinearReadInfo (fifo 4 2 5 3 (a := 1) (b := 4))) (fun t => result t == (0, 1, 0x1000)) = true ∧
    gives (exec .getLinearReadInfo (fifo 8 1 11 4 (b := 7))) (fun t => result t == (0, 4, 0x1004)) = true := by decide

theorem test_linear_write :
    gives (exec .getLinearWriteInfo (fifo 4 1 6 3 (a := 1) (b := 4) (ovw := true))) (fun t => result t == (0, 4, 0x1000))
      = true ∧
    gives (exec .getLinearWriteInfo (fifo 4 1 0 0 (b := 9) (ovw := true))) (fun t => result t == (5, 0, 0)) = true := by decide

theorem test_advance_pointers :
    gives (exec .advanceWritePointer (fifo 4 1 0 0 (b := 9))) (fun t =>
      result t == (0, 1, 0) && cursors t == (1, 0) && t.span == 9 && t.ghostFault) = true ∧
    gives (exec .advanceReadPointer (fifo 4 1 2 0 (b := 3))) (fun t =>
      result t == (0, 1, 0) && cursors t == (2, 3) && t.span == -1 && t.ghostFault) = true := by decide

theorem test_backward_pointers :
    gives (exec .backwardWritePointer (fifo 4 1 0 6 (b := 1))) (fun t => result t == (0, 1, 0) && cursors t == (7, 6))
      = true ∧
    gives (exec .backwardReadPointer (fifo 4 1 3 3 (b := 2))) (fun t => result t == (0, 1, 0) && cursors t == (3, 1))
      = true := by decide

theorem test_queries_overflowed :
    [Instr.count, .empty, .full, .remaining, .overflowed].map (fun i =>
      (result (nextOf (exec i (fifo 4 1 6 0)) State.reset)).2.1) = [4, 0, 1, 0, 1] := by decide

theorem test_queries_depth_zero :
    [Instr.count, .empty, .full, .remaining, .overflowed].map (fun i =>
      (result (nextOf (exec i (fifo 0 1 0 0)) State.reset)).2.1) = [0, 1, 1, 0, 0] := by decide

/-- L2.9: CAPABILITY before UNCONFIGURED, UNCONFIGURED before ALIGN, ALIGN, and ILLEGAL before CAPABILITY. -/
theorem test_priority :
    gives (runWord 0x018 State.reset) (fun t => result t == (3, 0, 0)) = true ∧
    gives (runWord 0x109 (State.reset.withArgs 0 0 0x5001)) (fun t => result t == (2, 0, 0)) = true ∧
    gives (runWord 0x109 (fifo 4 1 2 0 (x := 0x6002) (cur := 0))) (fun t => result t == (4, 0, 0)) = true ∧
    gives (runWord 0x118 (fifo 4 1 2 0 (cur := 0))) (fun t => result t == (1, 0, 0)) = true := by decide

/-- 20_memory.md R54: an access the platform does not admit leaves the command pending. -/
theorem test_stuck :
    gives (step { (fifo 4 1 1 0 (x := 0x7000) (P := devParams)).withFetchWord 32 0x008 with cur := 1 }) (fun t =>
      (t.ports.map PortState.busy) == [false, true] && t.bus.log == []) = true := by decide

/-- STATUS is CODE in [2:0] and BUSY in [8] (10_state.md R29). -/
theorem test_status_read :
    gives (step { (fifo 4 1 0 0).complete .align 0 0 with agenda := [.hostRead 0xF0000030 4] }) (fun t =>
      t.resp == .data 4) = true := by decide

/-! ## Witnesses: a concrete case for the hypotheses of each statement, clause by clause -/

/-- Command i pending on the port `cur`, its grant the next event. -/
def granted (i : Instr) (s : State) : State :=
  { s with ports := s.ports.modify s.cur fun p => { p with pending := some (encode i) }, agenda := [.grant s.cur] }

/-- An exec that answers a next state, at a concrete state. -/
def nexts (i : Instr) (s : State) : State := nextOf (exec i s) s

theorem exec_eq_nexts {i : Instr} {s : State} (h : gives (exec i s) (fun _ => true) = true) : exec i s = .next (nexts i s) :=
  eq_next_of_gives s h

theorem witness_DecodeEncodeAgree : decode 0x0000010B = .instr (.peekAtN .const) := by decide

theorem witness_ExactlyTheLegalWordsDecode :
    decode 0x00000203 = .instr (.setOverwritable true) ∧
    (0x00000203 : Word) &&& (Instr.setOverwritable false).rowMask = BitVec.ofNat 32 (Instr.setOverwritable false).opc := by
  decide

theorem witness_IllegalWordsComplete :
    (0x00000020 : Word).toNat / 32 % 8 ≠ 0 ∧ (0x80000010 : Word).toNat / 1024 ≠ 0 ∧
    ((0x0000001F : Word).toNat % 32 ∈ [0x00, 0x06, 0x07, 0x0F, 0x15, 0x16, 0x17, 0x1C, 0x1D, 0x1E, 0x1F]) ∧
    ((0x00000104 : Word).toNat / 256 % 2 ≠ 0 ∧ (0x00000104 : Word).toNat % 32 ∉ [0x05, 0x09, 0x0B]) ∧
    ((0x00000205 : Word).toNat / 512 % 2 ≠ 0 ∧ (0x00000205 : Word).toNat % 32 ∉ [0x01, 0x03]) := by decide

theorem witness_StepPerformsGrantedCommand :
    let s := granted .count (fifo 4 1 2 0)
    s.agenda = .grant 1 :: [] ∧ ((s.ports[1]?).bind PortState.pending) = some 0x010 ∧ decode 0x010 = .instr .count ∧
    gives (exec .count { s with agenda := [], cur := 1 }) (fun _ => true) = true := by decide

theorem witness_StepPerformsGrantedCommand_illegal :
    let s : State := { fifo 4 1 2 0 with
      ports := [PortState.reset, { PortState.reset with pending := some 0x104 }], agenda := [.grant 1] }
    s.agenda = .grant 1 :: [] ∧ ((s.ports[1]?).bind PortState.pending) = some 0x104 ∧
    decode 0x104 = .illegal .copyModeNotAllowed ∧ gives (step s) (fun t => result t == (1, 0, 0)) = true := by decide

theorem witness_StepPerformsGrantedCommand_stuck :
    let s := granted .read (fifo 4 1 2 0 (x := 0x7000) (P := devParams))
    s.agenda = .grant 1 :: [] ∧ decode 0x008 = .instr .read ∧
    exec .read { s with agenda := [], cur := 1 } = .fault .notAdmitted := ⟨by decide, by decide, rfl⟩

theorem witness_StepPerformsGrantedCommand_fetch :
    State.reset.ports.length = State.reset.params.nports ∧ 1 ≤ State.reset.params.nports ∧
    decodeTableWord 32 0x001 = some (.configure false) ∧
    gives (exec (.configure false)
      { State.reset.withFetchWord 32 0x001 with agenda := [], cur := fetchPort State.reset.params }) (fun _ => true) = true := by
  decide

theorem witness_StuckExactlyWhenNotAdmitted :
    let s := granted .read (fifo 4 1 2 0 (x := 0x7000) (P := devParams))
    s.agenda = .grant 1 :: [] ∧ ((s.ports[1]?).bind PortState.pending) = some (encode .read) ∧
    Passes .read { s with agenda := [], cur := 1 } ∧ ¬ Admitted .read { s with agenda := [], cur := 1 } := by decide

/-- One state in which every command passes its prologue, is admitted and completes. -/
theorem witness_PassedCommandsComplete :
    ∀ i ∈ allInstrs, Passes i (fifo 4 1 2 0 0 1 0x2000) ∧ Admitted i (fifo 4 1 2 0 0 1 0x2000) := by decide

/-- The two codes other than OK that a passed command can end with, at the boundary n = 2·DEPTH + 1. -/
theorem witness_PassedCommandsComplete_codes :
    Passes .write (fifo 0 1 0 0 (ovw := true)) ∧ Admitted .write (fifo 0 1 0 0 (ovw := true)) ∧
    Passes .getLinearWriteInfo (fifo 4 1 0 0 (b := 9) (ovw := true)) ∧
    2 * (fifo 4 1 0 0 (b := 9) (ovw := true)).depth.toNat < (fifo 4 1 0 0 (b := 9) (ovw := true)).opB.toNat := by decide

theorem witness_PrologueChecksInOrder :
    let s := fifo 4 1 2 0 (x := 0x6003) (cur := 0)
    s.cur < s.ports.length ∧ decode 0x020 = .illegal .reservedBits ∧
    (decode 0x01B = .instr .backwardReadPointer ∧ s.params.dmaCap.getD s.cur false = false) ∧
    (State.reset.configured = false ∧ decode 0x010 = .instr .count) ∧
    (s.configured = true ∧ decode 0x10B = .instr (.peekAtN .const) ∧ s.curPort.argAddr.toNat % 4 ≠ 0) ∧
    (decode 0x00B = .instr (.peekAtN .inc) ∧ (0x00B : Word).toNat / 256 % 2 ≠ 1) := by decide

theorem witness_RefusedCommandIsPrecise :
    gives (runWord 0x018 (fifo 4 1 2 0 (cur := 0))) (fun t => t.curPort.code ≠ .ok) = true ∧
    (fifo 4 1 2 0 (cur := 0)).cur < (fifo 4 1 2 0 (cur := 0)).ports.length := by decide

theorem witness_CompletionWritesOwnPortOnly :
    gives (runWord 0x010 (fifo 4 1 2 0)) (fun t => t.curPort.code = .ok) = true ∧
    gives (runWord 0x000 (fifo 4 1 2 0)) (fun t => t.curPort.code ≠ .ok) = true ∧
    (fifo 4 1 2 0).cur < (fifo 4 1 2 0).ports.length := by decide

theorem witness_CapabilityIsFixedAndGuards :
    gives (step State.reset) (fun _ => true) = true ∧
    gives (exec .advanceReadPointer (fifo 4 1 2 0 (cur := 0))) (fun t => t.curPort.code = .capability) = true ∧
    gives (exec .advanceReadPointer (fifo 4 1 2 0 (cur := 1))) (fun t => t.curPort.code = .ok) = true := by decide

theorem witness_ConfigureResult :
    Passes (.configure true) (State.reset.withArgs 32767 1 0x1000) ∧
    (State.reset.withArgs 32767 1 0x1000).opA.toNat ≤ 32767 ∧
    Passes (.configure true) (State.reset.withArgs 32768 1 0x1000) ∧
    32767 < (State.reset.withArgs 32768 1 0x1000).opA.toNat ∧
    State.reset.configured = false ∧ State.reset.cur < State.reset.ports.length := by decide

theorem witness_ClearAndSetOverwritableResult :
    Passes .clear (fifo 4 1 6 2) ∧ Passes (.setOverwritable true) (fifo 4 1 6 2) := by decide

theorem witness_OnlyListedCommandsWriteSharedRegisters :
    (∀ i ∈ allInstrs, gives (exec i (fifo 4 0 2 0 0 1 0x2000)) (fun _ => true) = true) ∧
    gives (handle (.hostWrite 0xF0000000 4 0x010) (fifo 4 0 2 0)) (fun _ => true) = true := by decide

theorem witness_CompensationLaw :
    (1 ≤ (1 : U16).toNat ∧ (1 : U16).toNat ≤ 32767) ∧ (1 ≤ (32767 : U16).toNat ∧ (32767 : U16).toNat ≤ 32767) := by decide

theorem witness_AdvanceLaw :
    (65533 : U16).toNat < 2 * (32767 : U16).toNat ∧ (65534 : U16).toNat ≤ 2 * (32767 : U16).toNat := by decide

theorem witness_BackwardLaw :
    (1 : U16).toNat < 2 * (1 : U16).toNat ∧ (2 : U16).toNat ≤ 2 * (1 : U16).toNat := by decide

theorem witness_CountLaw : (0 : U16).toNat < 2 * (4 : U16).toNat ∧ (7 : U16).toNat < 2 * (4 : U16).toNat := by decide

theorem witness_RelativeLaw :
    (7 : U16).toNat < 2 * (4 : U16).toNat ∧ (8 : U16).toNat ≤ 2 * (4 : U16).toNat ∧
    rawcnt (unusedOf 4) 3 3 = 0 ∧ rawcnt (unusedOf 4) 0 4 = 4 := by decide

theorem witness_CorrectReadPointerResult : Passes .correctReadPointer (fifo 4 1 6 5) := by decide

theorem witness_OverflowRecovery :
    let s := fifo 4 1 3 3 (b := 7)
    Inv s ∧ Tracked s ∧ s.ghostFault = false ∧ s.wrIdx = s.rdIdx ∧ 3 < s.depth.toNat ∧ Passes .advanceWritePointer s ∧
    s.opB.toNat = s.depth.toNat + 3 := by decide

theorem witness_WriteResult :
    (Passes .write (fifo 4 1 4 0) ∧ (fifo 4 1 4 0).depth ≤ (fifo 4 1 4 0).rawCount ∧ (fifo 4 1 4 0).ovw = false) ∧
    (Passes .write (fifo 0 1 0 0 (ovw := true)) ∧ (fifo 0 1 0 0 (ovw := true)).depth = 0) ∧
    (Passes .write (fifo 4 1 3 0) ∧ (fifo 4 1 3 0).rawCount < (fifo 4 1 3 0).depth ∧ Admitted .write (fifo 4 1 3 0)) ∧
    (Passes .write (fifo 4 1 4 0 (ovw := true)) ∧ Admitted .write (fifo 4 1 4 0 (ovw := true))) := by decide

theorem witness_WriteNResult :
    (∀ cm ∈ [CopyMode.inc, .const], Passes (.writeN cm) (fifo 4 1 3 0 (b := 2)) ∧ Admitted (.writeN cm) (fifo 4 1 3 0 (b := 2))) ∧
    (Passes (.writeN .inc) (fifo 4 1 3 1 (b := 4) (ovw := true)) ∧ Admitted (.writeN .inc) (fifo 4 1 3 1 (b := 4) (ovw := true))) ∧
    (Passes (.writeN .inc) (fifo 4 1 3 1 (b := 3) (ovw := true)) ∧ Admitted (.writeN .inc) (fifo 4 1 3 1 (b := 3) (ovw := true))) ∧
    (Passes (.writeN .inc) (fifo 4 1 4 0 (b := 2)) ∧ Admitted (.writeN .inc) (fifo 4 1 4 0 (b := 2))) := by decide

theorem witness_FullOverwriteLeavesDepthItems :
    let s := fifo 4 1 3 1 (b := 4) (ovw := true)
    Inv s ∧ s.contract = true ∧ s.ovw = true ∧ 1 ≤ s.depth.toNat ∧ s.depth.toNat ≤ s.opB.toNat ∧
    Passes (.writeN .inc) s ∧ gives (exec (.writeN .inc) s) (fun _ => true) = true := by decide

/-- A store of four one-byte slots at 0x1000. -/
def smallStore : Store := { params := devParams, base := 0x1000, depth := 4, isize := 1 }

theorem witness_PushIncStoresTheBytes :
    Bus.initial.race = [] ∧
    4 * smallStore.isize ≤ smallStore.cap ∧ smallStore.cap ≤ smallStore.params.space ∧
    (∀ t < 4, readable devParams ((0x2000 + 2 + t) % devParams.space) = true ∧
      isDevice devParams ((0x2000 + 2 + t) % devParams.space) = false) ∧
    (∀ t < 4, storable devParams (smallStore.ba 3 t) = true) ∧
    (∀ t < 4, ∀ u < 4, (0x2000 + 2 + t) % devParams.space ≠ smallStore.ba 3 u) := by decide

theorem witness_PushConstStoresTheStream :
    let words : List Word := [0x04030201, 0x08070605]
    let b : Bus := { Bus.initial with rx := [(0x6000, 0x04030201), (0x6000, 0x08070605)] }
    b.race = [] ∧ b.rx = words.map (fun w => (0x6000, w)) ++ [] ∧ smallStore.cap ≤ smallStore.params.space ∧
    4 * smallStore.isize ≤ smallStore.cap ∧ 0x6000 < devParams.space ∧
    (∀ j < 4, isDevice devParams ((0x6000 + j) % devParams.space) = true) ∧
    (∀ t < 4, storable devParams (smallStore.ba 1 t) = true) ∧
    words.length = (2 * smallStore.isize + 4 * smallStore.isize + 3) / 4 := by decide

/-- The same PUSH from ordinary memory at 0x2000. -/
theorem witness_PushConstStoresTheStream_memory :
    Bus.initial.race = [] ∧ 4 * smallStore.isize ≤ smallStore.cap ∧ smallStore.cap ≤ smallStore.params.space ∧
    (∀ t < 4, storable devParams (smallStore.ba 1 t) = true) ∧
    (∀ j < 4, readable devParams ((0x2000 + j) % devParams.space) = true ∧
      isDevice devParams ((0x2000 + j) % devParams.space) = false) ∧
    (∀ j < 4, ∀ t < 4, (0x2000 + j) % devParams.space ≠ smallStore.ba 1 t) := by decide

theorem witness_PullIncDeliversTheBytes :
    Bus.initial.race = [] ∧
    4 * smallStore.isize ≤ smallStore.cap ∧ 4 * smallStore.isize ≤ devParams.space ∧
    (∀ t < 4, readable devParams (smallStore.ba 2 t) = true ∧ isDevice devParams (smallStore.ba 2 t) = false) ∧
    (∀ t < 4, storable devParams ((0x3000 + t) % devParams.space) = true) ∧
    (∀ t < 4, ∀ u < 4, smallStore.ba 2 t ≠ (0x3000 + u) % devParams.space) := by decide

theorem witness_PullConstWritesTheWords :
    Bus.initial.race = [] ∧
    3 * smallStore.isize ≤ smallStore.cap ∧ (∀ j < 4, isDevice devParams ((0x6000 + j) % devParams.space) = true) ∧
    (∀ t < 3, readable devParams (smallStore.ba 2 t) = true ∧ isDevice devParams (smallStore.ba 2 t) = false) := by decide

/-- The same PULL to ordinary memory at 0x3000, whose four lanes have four addresses. -/
theorem witness_PullConstWritesTheWords_memory :
    Bus.initial.race = [] ∧ 3 * smallStore.isize ≤ smallStore.cap ∧
    (∀ t < 3, readable devParams (smallStore.ba 2 t) = true ∧ isDevice devParams (smallStore.ba 2 t) = false) ∧
    (∀ j < 4, storable devParams ((0x3000 + j) % devParams.space) = true) ∧
    (∀ j < 4, ∀ t < 3, (0x3000 + j) % devParams.space ≠ smallStore.ba 2 t) ∧ 3 * smallStore.isize ≠ 0 ∧
    (∀ j < 4, ∀ k < 4, j < k → (0x3000 + k) % devParams.space ≠ (0x3000 + j) % devParams.space) := by decide

theorem witness_AccessesAreExact :
    (gives (exec (.readN .inc) (fifo 4 0 2 0 (b := 1))) (fun _ => true) = true ∧ Passes (.readN .inc) (fifo 4 0 2 0 (b := 1))) ∧
    (gives (exec .read State.reset) (fun _ => true) = true ∧ ¬ Passes .read State.reset) ∧
    (gives (exec .count (fifo 4 1 2 0)) (fun _ => true) = true ∧ copyCall .count (fifo 4 1 2 0) = none) := by decide

theorem witness_MemoryFrameOfEveryCommand :
    let s := fifo 4 1 3 0 (x := 0x2000) (mem := [(0x2000, 4)])
    gives (exec .write s) (fun _ => true) = true ∧ 0x1003 ∈ storedAddrs .write s ∧ 0x1004 ∉ storedAddrs .write s ∧
    0x1004 ∉ racedAddrs s := by decide

theorem witness_ReadResult :
    (Passes .read (fifo 4 1 0 0) ∧ Admitted .read (fifo 4 1 0 0) ∧ (fifo 4 1 0 0).rawCount = 0) ∧
    (Passes .read (fifo 4 1 1 0) ∧ Admitted .read (fifo 4 1 1 0) ∧ (fifo 4 1 1 0).rawCount = 1) ∧
    (Passes .read (fifo 4 1 5 0) ∧ Admitted .read (fifo 4 1 5 0) ∧ (fifo 4 1 5 0).depth < (fifo 4 1 5 0).rawCount) := by decide

theorem witness_ReadNResult :
    (Passes (.readN .const) (fifo 4 1 6 0 (b := 0)) ∧ Admitted (.readN .const) (fifo 4 1 6 0 (b := 0))) ∧
    (Passes (.readN .const) (fifo 4 1 6 2 (b := 5)) ∧ Admitted (.readN .const) (fifo 4 1 6 2 (b := 5))) := by decide

theorem witness_PeekResults :
    (Passes .peekAt (fifo 4 1 3 0 (a := 3)) ∧ Admitted .peekAt (fifo 4 1 3 0 (a := 3))) ∧
    (Passes .peekAt (fifo 4 1 3 0 (a := 2)) ∧ Admitted .peekAt (fifo 4 1 3 0 (a := 2))) ∧
    (Passes (.peekAtN .inc) (fifo 4 1 6 0 (a := 1) (b := 5)) ∧ Admitted (.peekAtN .inc) (fifo 4 1 6 0 (a := 1) (b := 5))) := by
  decide

theorem witness_WriteThenReadRoundTrip :
    let s := fifo 4 1 7 7
    Inv s ∧ Tracked s ∧ s.ghostFault = false ∧ s.configured = true ∧ s.ovw = false ∧ s.wrIdx = s.rdIdx ∧
    1 ≤ (4 : U16).toNat ∧ (4 : U16).toNat ≤ s.depth.toNat ∧ s.params.map = [] ∧ s.bus.race = [] ∧
    s.store.cap ≤ s.params.space ∧
    (∀ t < (4 : U16).toNat * s.itemSize.toNat, ∀ u < s.store.cap,
      ((0x2000 : Word).toNat + t) % s.params.space ≠ s.store.ba 0 u ∧
      ((0x1004 : Word).toNat + t) % s.params.space ≠ s.store.ba 0 u) := by decide

theorem witness_LinearReadResult :
    Passes .getLinearReadInfo (fifo 4 2 5 3 (b := 4)) ∧ Passes .getLinearReadInfo (fifo 4 1 6 0 (b := 0)) := by decide

theorem witness_LinearWriteResult :
    Passes .getLinearWriteInfo (fifo 4 2 5 3 (b := 4)) ∧
    (∀ n ∈ [3, 4, 8, 9], Passes .getLinearWriteInfo (fifo 4 1 6 3 (b := n) (ovw := true)) ∧
      (fifo 4 1 6 3 (b := n) (ovw := true)).opB.toNat = n) := by decide

/-- L3's program P3: 7 items from slot 4 of 8, in two calls. -/
theorem witness_TwoCallCoverageRead :
    let s := fifo 8 1 11 4 (b := 7)
    let t1 := nexts .getLinearReadInfo s
    let t2 := nexts .advanceReadPointer (t1.withArgs 0 t1.curPort.resVal s.curPort.argAddr)
    Inv s ∧ Tracked s ∧ s.ghostFault = false ∧ s.opA = 0 ∧ Passes .getLinearReadInfo s ∧
    gives (exec .getLinearReadInfo s) (fun _ => true) = true ∧ t1.curPort.resVal.toNat < 7 ∧ s.dmaCapable = true ∧
    gives (exec .advanceReadPointer (t1.withArgs 0 t1.curPort.resVal s.curPort.argAddr)) (fun _ => true) = true ∧
    gives (exec .getLinearReadInfo (t2.withArgs 0 (s.opB - t1.curPort.resVal) s.curPort.argAddr)) (fun _ => true) = true := by
  decide

theorem witness_TwoCallCoverageWrite :
    let s := fifo 8 1 11 11 (b := 8)
    let t1 := nexts .getLinearWriteInfo s
    let t2 := nexts .advanceWritePointer (t1.withArgs 0 t1.curPort.resVal s.curPort.argAddr)
    Inv s ∧ Tracked s ∧ s.ghostFault = false ∧ s.opA = 0 ∧ s.ovw = false ∧ Passes .getLinearWriteInfo s ∧
    gives (exec .getLinearWriteInfo s) (fun _ => true) = true ∧ t1.curPort.resVal.toNat < 8 ∧ s.dmaCapable = true ∧
    gives (exec .advanceWritePointer (t1.withArgs 0 t1.curPort.resVal s.curPort.argAddr)) (fun _ => true) = true ∧
    gives (exec .getLinearWriteInfo (t2.withArgs 0 (s.opB - t1.curPort.resVal) s.curPort.argAddr)) (fun _ => true) = true := by
  decide

theorem witness_ManualPointerResults :
    ∀ i ∈ [Instr.advanceWritePointer, .advanceReadPointer, .backwardWritePointer, .backwardReadPointer],
      Passes i (fifo 4 1 0 6 (b := 65535)) := by decide

theorem witness_QueryResults :
    ∀ i ∈ [Instr.count, .empty, .full, .remaining, .overflowed], Passes i (fifo 4 1 4 0) ∧ Passes i (fifo 4 1 5 0) := by decide

theorem witness_QueriesAreIdempotent :
    let s := fifo 4 1 3 0
    let u : State := { nexts .full s with cur := 0 }
    (u.configured = s.configured ∧ u.depth = s.depth ∧ u.unused = s.unused ∧ u.wrIdx = s.wrIdx ∧ u.rdIdx = s.rdIdx) ∧
    gives (exec .count s) (fun _ => true) = true ∧ gives (exec .count u) (fun _ => true) = true := by decide

theorem witness_QueryRelations :
    ∀ w ∈ [0, 4, 7], (fifo 4 1 w 0).cur < (fifo 4 1 w 0).ports.length ∧ (fifo 4 1 w 0).configured = true ∧
      (fifo 4 1 w 0).contract = true := by decide

theorem witness_ResetPutsEveryRegister :
    ({ granted .count (fifo 4 1 2 0) with agenda := [.reset] } : State).agenda = .reset :: [] := by decide

theorem witness_StepKeepsInvariant :
    Inv (granted .write (fifo 4 0 2 0)) ∧ gives (step (granted .write (fifo 4 0 2 0))) (fun _ => true) = true := by decide

theorem witness_ResetMeetsInvariant : Params.default.wf ∧ devParams.wf := by decide

theorem witness_StepKeepsCountExact :
    let s := granted .advanceWritePointer (fifo 4 1 0 0 (b := 7))
    Inv s ∧ Tracked s ∧ gives (step s) (fun t => !t.ghostFault) = true := by decide

theorem witness_GhostFaultSticks :
    let s : State := { granted .clear (fifo 4 1 0 0) with ghostFault := true }
    s.ghostFault = true ∧ gives (step s) (fun _ => true) = true := by decide

theorem witness_SafeApiKeepsContract :
    let s := fifo 4 0 3 0 (b := 2) (cur := 0)
    Inv s ∧ Tracked s ∧ s.ghostFault = false ∧ s.ovw = false ∧ s.dmaCapable = false ∧
    gives (runWord 0x005 s) (fun _ => true) = true := by decide

/-- The hypotheses of the statements about host accesses to port 1, idle and busy. -/
theorem witness_HostAccesses :
    let s := fifo 4 1 2 0
    s.params.portBase % 4 = 0 ∧ s.ports.length = s.params.nports ∧
    (s.ports[1]?).map PortState.busy = some false ∧
    ((granted .count s).ports[1]?).map PortState.busy = some true := by decide

theorem witness_OtherHostAccessesAreRefused :
    let P := Params.default
    (P.portBase ≤ P.portBase + 63 ∧ P.portBase + 63 < P.portBase + 0x20 * P.nports ∧ (1 ≠ 4 ∨ (P.portBase + 63) % 4 ≠ 0)) ∧
    (P.portBase ≤ P.portBase + 2 ∧ P.portBase + 2 < P.portBase + 0x20 * P.nports ∧ (P.portBase + 2) % 4 ≠ 0) := by decide

theorem witness_AssembledStatementIssues :
    let st : Stmt := { port := 1, op := .readN, const := true, n := some 4, dst := some 0x6000 }
    (fifo 4 1 2 0).params.wf ∧ (fifo 4 1 2 0).ports.length = (fifo 4 1 2 0).params.nports ∧
    st.wf (fifo 4 1 2 0).params = true ∧ ((fifo 4 1 2 0).ports[st.port]?).map PortState.busy = some false := by decide

theorem witness_MasterWriteStoresOneByte :
    storable devParams (0x1000 % devParams.space) = true ∧ storable devParams (0x7000 % devParams.space) = false := by decide

theorem witness_IdleEnginePerformsPendingCommands :
    let s : State := { granted .count (fifo 4 1 2 0) with agenda := [] }
    s.agenda = [] ∧ (perform 1 s).isSome = true ∧ perform 0 s = none := ⟨rfl, rfl, rfl⟩

theorem witness_IdleEnginePerformsPendingCommands_none (p : Nat) : perform p (fifo 4 1 2 0) = none := by
  rcases p with _ | _ | p <;> simp [perform, fifo, State.resetWith, PortState.reset]

end Sys2Proof.Tests
end

section
/-! Proofs of the scope family (00_scope.md): what another master's write of a byte does. -/

namespace Sys2Proof.Machine

open Sys2Proof

/-- A step with an event left does what the event does to the state without it. -/
theorem step_of_agenda_cons {s : State} {e : Event} {rest : List Event} (h : s.agenda = e :: rest) :
    step s = handle e { s with agenda := rest } := by
  simp only [step, h]

theorem masterStore_of_storable {P : Params} {c : Host.Cell} (h : storable P (c.1 % P.space) = true) (m : List Host.Cell) :
    masterStore P c m = Memory.write m (c.1 % P.space) c.2 := if_pos h

theorem masterStore_of_not_storable {P : Params} {c : Host.Cell} (h : storable P (c.1 % P.space) = false)
    (m : List Host.Cell) : masterStore P c m = m := if_neg (by simp [h])

/-- The stored byte is what memory then holds at its reduced address (20_memory.md R68). -/
theorem masterStore_byteAt_same {P : Params} {c : Host.Cell} (b : Bus) (h : storable P (c.1 % P.space) = true) :
    ({ b with mem := masterStore P c b.mem } : Bus).byteAt (c.1 % P.space) = c.2 := by
  simp only [Bus.byteAt, masterStore_of_storable h, Memory.read_write_same, Option.getD_some]

theorem masterStore_byteAt_other {P : Params} {c : Host.Cell} (b : Bus) {a : Nat} (h : a ≠ c.1 % P.space) :
    ({ b with mem := masterStore P c b.mem } : Bus).byteAt a = b.byteAt a := by
  simp only [Bus.byteAt, masterStore_read_other h]

/-- Settles O53: the step is the event's `masterStore` on memory, whose rules give the byte written, every other byte, and the
write that the map drops. -/
theorem masterWriteStoresOneByte : Obligations.MasterWriteStoresOneByte := by
  intro s addr v rest hagenda
  refine ⟨masterStore s.params (addr, v) s.bus.mem, ?_, ?_, ?_, ?_⟩
  · exact step_of_agenda_cons hagenda
  · exact masterStore_byteAt_same (c := (addr, v)) s.bus
  · exact fun a ha => masterStore_byteAt_other (c := (addr, v)) s.bus ha
  · exact fun hdrop => masterStore_of_not_storable (c := (addr, v)) hdrop s.bus.mem

end Sys2Proof.Machine
end

section
/-! Facts of the state family (10_state.md), first part: the index arithmetic of 41_index_arithmetic.md modulo 2·DEPTH. -/

namespace Sys2Proof.Machine

open Sys2Proof

variable {d : U16}

theorem maxIndexOf_toNat (h0 : d ≠ 0) (hd : d.toNat ≤ Config.depthMax) : (maxIndexOf d).toNat = 2 * d.toNat - 1 := by
  unfold Config.depthMax at hd
  unfold maxIndexOf
  bv_omega

theorem unusedOf_toNat (h0 : d ≠ 0) (hd : d.toNat ≤ Config.depthMax) : (unusedOf d).toNat = 65536 - 2 * d.toNat := by
  have hm := maxIndexOf_toNat h0 hd
  unfold Config.depthMax at hd
  unfold unusedOf
  bv_omega

/-- The constants of depth 0 are those reset gives (70_reset_and_hazards.md R332). -/
theorem maxIndexOf_zero : maxIndexOf 0 = 0xFFFF := by decide

theorem unusedOf_zero : unusedOf 0 = 0 := by decide

/-- ADV steps over the unused values at most once (R120): the result is `p + o` or `p + o - 2·DEPTH`. -/
theorem adv_toNat {p : U16} (h0 : d ≠ 0) (hd : d.toNat ≤ Config.depthMax) (hp : p.toNat < 2 * d.toNat) (o : U16) :
    (adv (maxIndexOf d) (unusedOf d) p o).toNat =
      if p.toNat + o.toNat < 2 * d.toNat then p.toNat + o.toNat else p.toNat + o.toNat - 2 * d.toNat := by
  have hm := maxIndexOf_toNat h0 hd
  have hu := unusedOf_toNat h0 hd
  unfold Config.depthMax at hd
  unfold adv
  simp only
  split <;> split <;> bv_omega

/-- BWD by at most `p + 2·DEPTH` steps back over the unused values at most once (R121). -/
theorem bwd_toNat {p o : U16} (h0 : d ≠ 0) (hd : d.toNat ≤ Config.depthMax) (hp : p.toNat < 2 * d.toNat)
    (ho : o.toNat ≤ p.toNat + 2 * d.toNat) :
    (bwd (maxIndexOf d) (unusedOf d) p o).toNat =
      if o.toNat ≤ p.toNat then p.toNat - o.toNat else p.toNat + 2 * d.toNat - o.toNat := by
  have hm := maxIndexOf_toNat h0 hd
  have hu := unusedOf_toNat h0 hd
  unfold Config.depthMax at hd
  unfold bwd
  simp only
  split <;> split <;> bv_omega

/-- A BWD further back than that lands on an unused value, which breaks the contract. -/
theorem le_of_bwd_lt {p o : U16} (h0 : d ≠ 0) (hd : d.toNat ≤ Config.depthMax)
    (hr : (bwd (maxIndexOf d) (unusedOf d) p o).toNat < 2 * d.toNat) : o.toNat ≤ p.toNat + 2 * d.toNat := by
  have hm := maxIndexOf_toNat h0 hd
  have hu := unusedOf_toNat h0 hd
  unfold Config.depthMax at hd
  unfold bwd at hr
  simp only at hr
  split at hr <;> bv_omega

theorem rawcnt_toNat {w r : U16} (h0 : d ≠ 0) (hd : d.toNat ≤ Config.depthMax) (hw : w.toNat < 2 * d.toNat)
    (hr : r.toNat < 2 * d.toNat) :
    (rawcnt (unusedOf d) w r).toNat =
      if r.toNat ≤ w.toNat then w.toNat - r.toNat else w.toNat + 2 * d.toNat - r.toNat := by
  have hu := unusedOf_toNat h0 hd
  unfold Config.depthMax at hd
  unfold rawcnt
  simp only
  split <;> split <;> bv_omega

/-- On cursors inside the index space ADV is addition modulo 2·DEPTH. -/
theorem adv_modEq {p : U16} (h0 : d ≠ 0) (hd : d.toNat ≤ Config.depthMax) (hp : p.toNat < 2 * d.toNat) (o : U16) :
    ((adv (maxIndexOf d) (unusedOf d) p o).toNat : ℤ) ≡ p.toNat + o.toNat [ZMOD 2 * d.toNat] := by
  rw [adv_toNat h0 hd hp]
  split
  · exact Int.modEq_iff_dvd.2 ⟨0, by omega⟩
  · exact Int.modEq_iff_dvd.2 ⟨1, by omega⟩

/-- On cursors inside the index space BWD is subtraction modulo 2·DEPTH. -/
theorem bwd_modEq {p o : U16} (h0 : d ≠ 0) (hd : d.toNat ≤ Config.depthMax) (hp : p.toNat < 2 * d.toNat)
    (ho : o.toNat ≤ p.toNat + 2 * d.toNat) :
    ((bwd (maxIndexOf d) (unusedOf d) p o).toNat : ℤ) ≡ p.toNat - o.toNat [ZMOD 2 * d.toNat] := by
  rw [bwd_toNat h0 hd hp ho]
  split
  · exact Int.modEq_iff_dvd.2 ⟨0, by omega⟩
  · exact Int.modEq_iff_dvd.2 ⟨-1, by omega⟩

theorem rawcnt_lt {w r : U16} (h0 : d ≠ 0) (hd : d.toNat ≤ Config.depthMax) (hw : w.toNat < 2 * d.toNat)
    (hr : r.toNat < 2 * d.toNat) : (rawcnt (unusedOf d) w r).toNat < 2 * d.toNat := by
  rw [rawcnt_toNat h0 hd hw hr]
  split <;> omega

theorem rawcnt_modEq {w r : U16} (h0 : d ≠ 0) (hd : d.toNat ≤ Config.depthMax) (hw : w.toNat < 2 * d.toNat)
    (hr : r.toNat < 2 * d.toNat) :
    ((rawcnt (unusedOf d) w r).toNat : ℤ) ≡ w.toNat - r.toNat [ZMOD 2 * d.toNat] := by
  rw [rawcnt_toNat h0 hd hw hr]
  split
  · exact Int.modEq_iff_dvd.2 ⟨0, by omega⟩
  · exact Int.modEq_iff_dvd.2 ⟨-1, by omega⟩

end Sys2Proof.Machine
end

section
/-! Facts of the state family (10_state.md), second part: everything a command can answer, said once, as the state it leaves
before it completes and the way it completes. -/

namespace Sys2Proof.Machine

open Sys2Proof

/-- How a performed command has changed the state when it comes to complete: it leaves it, writes the configuration, or, after
CHECK_CORRECT and a copy, moves a cursor and SPAN with it (10_state.md R33). -/
inductive Effect : State → State → Prop
  | stay (s : State) : Effect s s
  | configure {s : State} {d : U16} {base : Nat} (hd : d.toNat ≤ Config.depthMax) (hb : base < s.params.space) (z : U16)
      (ow : Bool) : Effect s (s.configureRegs d z base ow)
  | clear {s : State} (hc : s.configured = true) : Effect s s.clearRegs
  | setOvw {s : State} (hc : s.configured = true) (ow : Bool) : Effect s (s.setOvw ow)
  | corrected {s u : State} (hc : s.configured = true) (h : Effect s.correct u) : Effect s u
  | copied {s u : State} {b : Bus} (hb : MemOk s.params.space s.bus.mem → MemOk s.params.space b.mem)
      (h : Effect (s.withBus b) u) : Effect s u
  | advWr {s : State} (hc : s.configured = true) (n : U16) :
      Effect s (s.setWr (s.adv s.wrIdx n) (s.span + n.toNat))
  | bwdWr {s : State} (hc : s.configured = true) (n : U16) :
      Effect s (s.setWr (s.bwd s.wrIdx n) (s.span - n.toNat))
  | advRd {s : State} (hc : s.configured = true) (n : U16) :
      Effect s (s.setRd (s.adv s.rdIdx n) (s.span - n.toNat))
  | bwdRd {s : State} (hc : s.configured = true) (n : U16) :
      Effect s (s.setRd (s.bwd s.rdIdx n) (s.span + n.toNat))
  | overwrite {s : State} (hc : s.configured = true) :
      Effect s (s.setWr (s.adv s.rdIdx s.depth) s.depth.toNat)

/-- What a command can answer on the port `cur`: it is not performed, it is refused with an error code, or it completes with
code OK. -/
inductive Answers (s : State) : Host.Outcome State Fault Refusal → Prop
  | noPort (h : s.ports.length ≤ s.cur) : Answers s (.fault .noSuchPort)
  | stuck : Answers s (.fault .notAdmitted)
  | refused {c : Code} (hc : c ≠ .ok) : Answers s (.next (s.raiseError c))
  | done {u : State} {v : U16} {x : Word} (he : Effect s u) (hx : x.toNat < s.params.space) :
      Answers s (.next (u.finish v x))

/-! ## The shared operations -/

theorem ofNat_toNat_lt_space (P : Params) {n : Nat} (h : n < P.space) : (BitVec.ofNat 32 n).toNat < P.space :=
  lt_of_le_of_lt (by simpa using Nat.mod_le n _) h

theorem slotAddr_lt_space (s : State) (slot : Nat) : (s.slotAddr slot).toNat < s.params.space :=
  ofNat_toNat_lt_space s.params (Nat.mod_lt _ (space_pos _))

theorem zero_lt_space (P : Params) : (0 : Word).toNat < P.space := space_pos P

theorem opX_lt_space (s : State) : s.opX < s.params.space := Nat.mod_lt _ (space_pos _)

theorem checkCorrect_params (s : State) : (checkCorrect s).st.params = s.params := by rw [checkCorrect_frame]

theorem checkCorrect_configured (s : State) : (checkCorrect s).st.configured = s.configured := by rw [checkCorrect_frame]

/-- The correction counts as part of the effect. -/
theorem Effect.of_checkCorrect {s u : State} (hc : s.configured = true) (h : Effect (checkCorrect s).st u) : Effect s u := by
  rcases checkCorrect_cases s with ⟨-, e⟩ | ⟨-, e⟩ <;> rw [e] at h
  · exact .corrected hc h
  · exact h

theorem Effect.advWr_ofNat {s : State} (hc : s.configured = true) {n : Nat} (hn : n < 2 ^ 16) :
    Effect s (s.setWr (s.adv s.wrIdx (BitVec.ofNat 16 n)) (s.span + n)) := by
  have e : (BitVec.ofNat 16 n).toNat = n := Nat.mod_eq_of_lt hn
  simpa only [e] using Effect.advWr hc (BitVec.ofNat 16 n)

theorem Effect.advRd_ofNat {s : State} (hc : s.configured = true) {n : Nat} (hn : n < 2 ^ 16) :
    Effect s (s.setRd (s.adv s.rdIdx (BitVec.ofNat 16 n)) (s.span - n)) := by
  have e : (BitVec.ofNat 16 n).toNat = n := Nat.mod_eq_of_lt hn
  simpa only [e] using Effect.advRd hc (BitVec.ofNat 16 n)

/-- Everything WSEL can choose moves the write cursor as one of the effects does (43_write_path.md R162). -/
theorem Effect.wsel {s : State} (hc : s.configured = true) (n : U16) :
    let sel := Machine.wsel s n.toNat
    Effect s (s.setWr (s.adv sel.wEff (BitVec.ofNat 16 sel.nEff)) sel.span) := by
  unfold Machine.wsel
  simp only
  split
  · exact .advWr_ofNat hc (lt_of_le_of_lt (Nat.min_le_left _ _) n.isLt)
  · split
    · simpa using Effect.overwrite hc
    · exact .advWr_ofNat hc n.isLt

variable {s : State} {body : State → Host.Outcome State Fault Refusal}

theorem Answers.prologue {i : Instr} (h : Passes i s → Answers s (body s)) : Answers s (prologue i s body) := by
  rcases prologue_cases i s body with ⟨hp, e⟩ | ⟨-, -, c, hc, e⟩ | ⟨hp, e⟩ <;> rw [e]
  · exact .noPort hp
  · exact .refused hc
  · exact h hp

/-- A command other than CONFIGURE is performed on a configured block only (40_configuration.md R100). -/
theorem Answers.prologue_configured {i : Instr} (h : s.configured = true → Answers s (body s))
    (hi : i.isConfigure = false := by rfl) : Answers s (Machine.prologue i s body) :=
  .prologue fun ⟨_, _, hc, _⟩ => h (hc.resolve_left (by simp [hi]))

theorem Answers.afterCopy {u : State} {r : Option Bus} (h : ∀ b, r = some b → Answers s (body (u.withBus b))) :
    Answers s (afterCopy u r body) := by
  cases r with
  | none => exact .stuck
  | some b => exact h b rfl

/-- A command that completes without a pointer result. -/
theorem Answers.done_zero {u : State} {v : U16} (he : Effect s u) : Answers s (.next (u.finish v 0)) :=
  .done he (zero_lt_space _)

theorem Answers.finishRun {u : State} (he : Effect s u) (hp : u.params = s.params) (slot n : Nat) :
    Answers s (.next (u.finishRun slot n)) :=
  .done he (hp ▸ slotAddr_lt_space u slot)

/-- The commands of the read path: CHECK_CORRECT, then a PULL, then what `body` does with the corrected state. -/
theorem Answers.afterPull {cm : CopyMode} {xa rel0 n : Nat} (hc : s.configured = true)
    (h : ∀ b, let t := (checkCorrect s).st.withBus b
      (∀ {u}, Effect t u → Effect s u) → t.configured = true → Answers s (body t)) :
    Answers s (Machine.afterCopy (checkCorrect s).st
      (pull (checkCorrect s).st.store cm xa rel0 n (checkCorrect s).st.bus) body) :=
  .afterCopy fun b hb =>
    h b (fun he => .of_checkCorrect hc (.copied (fun hm => pull_memOk hm hb) he)) ((checkCorrect_configured s).trans hc)

/-! ## The commands -/

theorem execConfigure_answers (ow : Bool) (s : State) : Answers s (execConfigure ow s) := by
  refine .prologue fun _ => ?_
  split
  · exact .done_zero (.stay s)
  · next hd => exact .done_zero (.configure (by omega) (opX_lt_space s) _ _)

theorem execWrite_answers (s : State) : Answers s (execWrite s) := by
  refine .prologue_configured fun hc => ?_
  split
  · exact .done_zero (.stay s)
  · split
    · exact .refused (by decide)
    · exact .afterCopy fun b hb => .done_zero (.copied (fun hm => push_memOk hm hb) (.advWr (s := s.withBus b) hc 1))

theorem execWriteN_answers (cm : CopyMode) (s : State) : Answers s (execWriteN cm s) := by
  refine .prologue_configured fun hc => ?_
  simp only
  split
  · exact .done_zero (.stay s)
  · split
    · exact .refused (by decide)
    · exact .afterCopy fun b hb =>
        .done_zero (.copied (fun hm => push_memOk hm hb) (Effect.wsel (s := s.withBus b) hc s.opB))

theorem execRead_answers (s : State) : Answers s (execRead s) := by
  refine .prologue_configured fun hc => ?_
  simp only [← checkCorrect_rdIdx]
  split
  · exact .done_zero (.of_checkCorrect hc (.stay _))
  · split
    · exact .refused (by decide)
    · exact .afterPull hc fun b he ht => .done_zero (he (.advRd ht 1))

theorem execReadN_answers (cm : CopyMode) (s : State) : Answers s (execReadN cm s) := by
  refine .prologue_configured fun hc => ?_
  simp only [← checkCorrect_rdIdx]
  split
  · exact .done_zero (.of_checkCorrect hc (.stay _))
  · split
    · exact .refused (by decide)
    · exact .afterPull hc fun b he ht => .done_zero (he (.advRd_ofNat ht (by omega)))

theorem execPeekAt_answers (s : State) : Answers s (execPeekAt s) := by
  refine .prologue_configured fun hc => ?_
  simp only
  split
  · exact .done_zero (.of_checkCorrect hc (.stay _))
  · split
    · exact .refused (by decide)
    · exact .afterPull hc fun b he _ => .done_zero (he (.stay _))

theorem execPeekAtN_answers (cm : CopyMode) (s : State) : Answers s (execPeekAtN cm s) := by
  refine .prologue_configured fun hc => ?_
  simp only
  split
  · exact .done_zero (.of_checkCorrect hc (.stay _))
  · split
    · exact .refused (by decide)
    · exact .afterPull hc fun b he _ => .done_zero (he (.stay _))

theorem execGetLinearReadInfo_answers (s : State) : Answers s (execGetLinearReadInfo s) := by
  refine .prologue_configured fun hc => ?_
  simp only
  split
  · exact .done_zero (.of_checkCorrect hc (.stay _))
  · split
    · exact .refused (by decide)
    · exact .finishRun (.of_checkCorrect hc (.stay _)) (checkCorrect_params s) _ _

theorem execGetLinearWriteInfo_answers (s : State) : Answers s (execGetLinearWriteInfo s) := by
  refine .prologue_configured fun _ => ?_
  split
  · exact .refused (by decide)
  · split
    · exact .done_zero (.stay s)
    · split
      · exact .refused (by decide)
      · exact .finishRun (.stay s) rfl _ _

theorem execClear_answers (s : State) : Answers s (execClear s) :=
  .prologue_configured fun hc => .done_zero (.clear hc)

theorem execSetOverwritable_answers (ow : Bool) (s : State) : Answers s (execSetOverwritable ow s) :=
  .prologue_configured fun hc => .done_zero (.setOvw hc ow)

theorem execCorrectReadPointer_answers (s : State) : Answers s (execCorrectReadPointer s) :=
  .prologue_configured fun hc => .done_zero (.corrected hc (.stay _))

theorem execCount_answers (s : State) : Answers s (execCount s) :=
  .prologue_configured fun _ => .done_zero (.stay s)

theorem execEmpty_answers (s : State) : Answers s (execEmpty s) :=
  .prologue_configured fun _ => .done_zero (.stay s)

theorem execFull_answers (s : State) : Answers s (execFull s) :=
  .prologue_configured fun _ => .done_zero (.stay s)

theorem execRemaining_answers (s : State) : Answers s (execRemaining s) :=
  .prologue_configured fun _ => .done_zero (.stay s)

theorem execOverflowed_answers (s : State) : Answers s (execOverflowed s) :=
  .prologue_configured fun _ => .done_zero (.stay s)

theorem execAdvanceWritePointer_answers (s : State) : Answers s (execAdvanceWritePointer s) :=
  .prologue_configured fun hc => .done_zero (.advWr hc _)

theorem execAdvanceReadPointer_answers (s : State) : Answers s (execAdvanceReadPointer s) :=
  .prologue_configured fun hc => .done_zero (.advRd hc _)

theorem execBackwardWritePointer_answers (s : State) : Answers s (execBackwardWritePointer s) :=
  .prologue_configured fun hc => .done_zero (.bwdWr hc _)

theorem execBackwardReadPointer_answers (s : State) : Answers s (execBackwardReadPointer s) :=
  .prologue_configured fun hc => .done_zero (.bwdRd hc _)

/-- Everything a command can answer. -/
theorem exec_answers (i : Instr) (s : State) : Answers s (exec i s) := by
  cases i with
  | configure ow => exact execConfigure_answers ow s
  | clear => exact execClear_answers s
  | setOverwritable ow => exact execSetOverwritable_answers ow s
  | write => exact execWrite_answers s
  | writeN cm => exact execWriteN_answers cm s
  | read => exact execRead_answers s
  | readN cm => exact execReadN_answers cm s
  | peekAt => exact execPeekAt_answers s
  | peekAtN cm => exact execPeekAtN_answers cm s
  | getLinearReadInfo => exact execGetLinearReadInfo_answers s
  | getLinearWriteInfo => exact execGetLinearWriteInfo_answers s
  | correctReadPointer => exact execCorrectReadPointer_answers s
  | count => exact execCount_answers s
  | empty => exact execEmpty_answers s
  | full => exact execFull_answers s
  | remaining => exact execRemaining_answers s
  | overflowed => exact execOverflowed_answers s
  | advanceWritePointer => exact execAdvanceWritePointer_answers s
  | advanceReadPointer => exact execAdvanceReadPointer_answers s
  | backwardWritePointer => exact execBackwardWritePointer_answers s
  | backwardReadPointer => exact execBackwardReadPointer_answers s

/-- Everything a command word can answer: an illegal one is refused. -/
theorem runWord_answers (w : Word) (s : State) : Answers s (runWord w s) := by
  cases h : decode w with
  | instr i => exact runWord_of_instr h s ▸ exec_answers i s
  | illegal why => exact runWord_of_illegal h s ▸ .refused (by decide)

/-- A word that answers a next state was refused with an error code or completed with code OK. -/
theorem runWord_next_cases {w : Word} {s t : State} (h : runWord w s = .next t) :
    (∃ c, c ≠ .ok ∧ t = s.complete c 0 0) ∨
    ∃ u v x, Effect s u ∧ x.toNat < s.params.space ∧ t = u.finish v x := by
  have ha := runWord_answers w s
  rw [h] at ha
  cases ha with
  | refused hc => exact .inl ⟨_, hc, rfl⟩
  | done he hx => exact .inr ⟨_, _, _, he, hx, rfl⟩

/-- On a port the block has, a word completes or is stuck on an access that is not admitted. -/
theorem runWord_next_or_stuck (w : Word) {s : State} (hp : s.cur < s.ports.length) :
    runWord w s = .fault .notAdmitted ∨ ∃ t, runWord w s = .next t := by
  have ha := runWord_answers w s
  generalize runWord w s = o at ha ⊢
  cases ha with
  | noPort h => omega
  | stuck => exact .inl rfl
  | refused => exact .inr ⟨_, rfl⟩
  | done => exact .inr ⟨_, rfl⟩

/-! ## What every effect leaves unchanged -/

/-- No effect writes a port, `cur`, the parameters, the coming events, the host bus's answer or the ghost fault. -/
theorem Effect.frame {s u : State} (h : Effect s u) :
    u.ports = s.ports ∧ u.cur = s.cur ∧ u.params = s.params ∧ u.agenda = s.agenda ∧ u.resp = s.resp ∧
      u.ghostFault = s.ghostFault := by
  induction h with
  | corrected _ _ ih => exact ih
  | copied _ _ ih => exact ih
  | _ => exact ⟨rfl, rfl, rfl, rfl, rfl, rfl⟩

end Sys2Proof.Machine
end

section
/-! Facts of the state family (10_state.md), third part: what the engine does with a pending command, and everything one step
can do, said once. -/

namespace Sys2Proof.Machine

open Sys2Proof

/-! ## Completing a pending command -/

/-- Every completed command writes its port's registers as `State.complete` does (10_state.md R31). -/
theorem runWord_completes {w : Word} {s t : State} (h : runWord w s = .next t) :
    ∃ c v x, t.ports = (s.complete c v x).ports ∧ (c ≠ .ok → v = 0 ∧ x = 0) := by
  rcases runWord_next_cases h with ⟨c, -, rfl⟩ | ⟨u, v, x, he, -, rfl⟩
  · exact ⟨c, 0, 0, rfl, fun _ => ⟨rfl, rfl⟩⟩
  · obtain ⟨hports, hcur, -⟩ := he.frame
    exact ⟨.ok, v, x, by simp [State.finish, hports, hcur], fun h => absurd rfl h⟩

/-- Completing a port's pending command leaves one fewer port BUSY. -/
theorem countP_busy_complete {s : State} {port : PortState} (hp : s.ports[s.cur]? = some port) (hb : port.busy = true)
    (c : Code) (v : U16) (x : Word) :
    (s.complete c v x).ports.countP PortState.busy + 1 = s.ports.countP PortState.busy := by
  obtain ⟨hlt, rfl⟩ := List.getElem?_eq_some_iff.1 hp
  have hpos : 0 < s.ports.countP PortState.busy := List.countP_pos_iff.2 ⟨_, List.getElem_mem hlt, hb⟩
  rw [State.complete_ports, List.modify_eq_set_get _ hlt, List.countP_set hlt, if_pos hb,
    if_neg (by simp [PortState.busy])]
  omega

/-! ## Performing -/

section
variable {s : State} {p : Nat} {port : PortState} {w : Word}

theorem perform_of_next {t : State} (hp : s.ports[p]? = some port) (hw : port.pending = some w)
    (h : runWord w { s with cur := p } = .next t) : perform p s = some (.next t) := by
  simp [perform, hp, hw, h]

theorem perform_of_stuck (hp : s.ports[p]? = some port) (hw : port.pending = some w)
    (h : runWord w { s with cur := p } = .fault .notAdmitted) : perform p s = none := by
  simp [perform, hp, hw, h]

/-- A performance step is the completion of the port's pending word. -/
theorem perform_some {o : Host.Outcome State Fault Refusal} (h : perform p s = some o) :
    ∃ port w t, s.ports[p]? = some port ∧ port.pending = some w ∧ runWord w { s with cur := p } = .next t ∧
      o = .next t := by
  rcases perform_cases p s with e | ⟨port, w, hp, hw, e, hns⟩
  · rw [e] at h; cases h
  · obtain rfl := Option.some.inj (e.symm.trans h)
    have hlt : p < s.ports.length := (List.getElem?_eq_some_iff.1 hp).1
    obtain ⟨t, ht⟩ := (runWord_next_or_stuck w (s := { s with cur := p }) hlt).resolve_left hns
    exact ⟨port, w, t, hp, hw, ht, ht⟩

end

/-- The idle engine performs one of the listed ports, or none of them has a performance step and nothing changes. -/
theorem firstPerform_cases (ps : List Nat) (s : State) :
    (∃ p o, perform p s = some o ∧ firstPerform ps s = o) ∨
    ((∀ p ∈ ps, perform p s = none) ∧ firstPerform ps s = .next s) := by
  induction ps with
  | nil => exact .inr ⟨by simp, rfl⟩
  | cons p ps ih =>
    cases h : perform p s with
    | some o => exact .inl ⟨p, o, h, by simp [firstPerform, h]⟩
    | none => simpa [firstPerform, h] using ih

/-- The same over every port the block has, which are all the ports that can hold a command. -/
theorem drain_cases (s : State) :
    (∃ p o, perform p s = some o ∧ drain s = o) ∨ ((∀ p, perform p s = none) ∧ drain s = .next s) := by
  refine (firstPerform_cases (List.range s.ports.length) s).imp id fun ⟨hnone, e⟩ => ⟨fun p => ?_, e⟩
  by_cases hp : p < s.ports.length
  · exact hnone p (List.mem_range.2 hp)
  · simp [perform, List.getElem?_eq_none (Nat.le_of_not_lt hp)]

theorem step_of_agenda_nil {s : State} (h : s.agenda = []) : step s = drain s := by
  simp only [step, h]

/-! ## One step -/

/-- The state with its next event taken from the agenda. -/
def State.takeEvent (s : State) : State := { s with agenda := s.agenda.tail }

theorem takeEvent_of_cons {s : State} {e : Event} {rest : List Event} (h : s.agenda = e :: rest) :
    s.takeEvent = { s with agenda := rest } := by
  simp [State.takeEvent, h]

theorem takeEvent_of_nil {s : State} (h : s.agenda = []) : s.takeEvent = s := by
  rw [State.takeEvent, h, List.tail_nil, ← h]

/-- Everything one step can do (10_state.md R32): the event, if any, is taken, and then nothing happens, a port's pending word is
performed, or the event acts on the block. -/
inductive StepTo (s : State) : State → Prop
  | idle : StepTo s s.takeEvent
  | performed {p : Nat} {port : PortState} {w : Word} {t : State} (hp : s.ports[p]? = some port)
      (hw : port.pending = some w) (h : runWord w { s.takeEvent with cur := p } = .next t) : StepTo s t
  | hostWrite (addr width : Nat) (v : Word) : StepTo s (s.takeEvent.hostWrite addr width v)
  | hostRead (addr width : Nat) : StepTo s (s.takeEvent.hostRead addr width)
  | masterWrite (addr : Nat) (b : Byte) : StepTo s (s.takeEvent.masterWrite addr b)
  | reset {rest : List Event} (h : s.agenda = .reset :: rest) : StepTo s s.takeEvent.applyReset

theorem StepTo.of_perform {s t : State} {p : Nat} (h : perform p s.takeEvent = some (.next t)) : StepTo s t := by
  obtain ⟨port, w, t', hp, hw, hr, e⟩ := perform_some h
  cases e
  exact .performed hp hw hr

theorem step_next {s t : State} (h : step s = .next t) : StepTo s t := by
  cases ha : s.agenda with
  | nil =>
    rw [step_of_agenda_nil ha] at h
    rcases drain_cases s with ⟨p, o, hp, e⟩ | ⟨-, e⟩
    · exact .of_perform (p := p) (by rw [takeEvent_of_nil ha, hp, ← e, h])
    · obtain rfl : s = t := by simpa [e] using h
      simpa only [takeEvent_of_nil ha] using StepTo.idle (s := s)
  | cons e rest =>
    rw [step_of_agenda_cons ha, ← takeEvent_of_cons ha] at h
    cases e with
    | grant p =>
      cases hp : perform p s.takeEvent with
      | none =>
        obtain rfl : s.takeEvent = t := by simpa [handle, hp] using h
        exact .idle
      | some o => exact .of_perform (p := p) (by simpa [handle, hp] using h)
    | hostWrite addr width v => cases h; exact .hostWrite addr width v
    | hostRead addr width => cases h; exact .hostRead addr width
    | masterWrite addr b => cases h; exact .masterWrite addr b
    | reset => cases h; exact .reset ha

/-! ## The host side -/

@[simp] theorem writeReg_resPtr (v : Word) (k : Nat) (q : PortState) : (q.writeReg v k).resPtr = q.resPtr := by
  unfold PortState.writeReg
  split
  · rfl
  · split <;> rfl

/-- A host write changes at most one port's registers and the bus's answer. -/
theorem hostWrite_frame (addr width : Nat) (v : Word) (s : State) :
    ∃ ports resp, s.hostWrite addr width v = { s with ports := ports, resp := resp } ∧
      (ports = s.ports ∨ ∃ p k, ports = s.ports.modify p (PortState.writeReg v k)) := by
  unfold State.hostWrite
  split
  · exact ⟨_, _, rfl, .inr ⟨_, _, rfl⟩⟩
  · exact ⟨_, _, rfl, .inl rfl⟩
  · exact ⟨_, _, rfl, .inl rfl⟩

/-- A host read changes the bus's answer only. -/
theorem hostRead_frame (addr width : Nat) (s : State) :
    ∃ resp, s.hostRead addr width = { s with resp := resp } := by
  unfold State.hostRead
  split <;> exact ⟨_, rfl⟩

/-- An aligned 4-byte access inside a port's window selects the register at its word offset (10_state.md R29). -/
theorem hostTarget_register {P : Params} {p off : Nat} (hb : P.portBase % 4 = 0) (hp : p < P.nports) (ho : off < 0x20)
    (ha : off % 4 = 0) : hostTarget P (P.portBase + 0x20 * p + off) 4 = .reg p (off / 4) := by
  unfold hostTarget windowBytes
  rw [if_neg (by omega), if_pos (by omega)]
  congr 1 <;> omega

end Sys2Proof.Machine
end

section
/-! Proofs of the state family (10_state.md), first part: the invariant and the exact count, kept by every step. -/

namespace Sys2Proof.Machine

open Sys2Proof

/-! ## The invariant of every step -/

section
variable {s : State}

theorem inv_withCur {p : Nat} (hp : p < s.ports.length) (h : Inv s) : Inv { s with cur := p } := by
  obtain ⟨hwf, hlen, -, hrest⟩ := h
  exact ⟨hwf, hlen, hlen ▸ hp, hrest⟩

/-- New registers for the ports keep the invariant where their number and the bound on RES_PTR stay. -/
theorem inv_withPorts {ports : List PortState} {resp : HostResp} (hl : ports.length = s.ports.length)
    (hr : ∀ q ∈ ports, q.resPtr.toNat < s.params.space) (h : Inv s) : Inv { s with ports := ports, resp := resp } := by
  obtain ⟨hwf, hlen, hcur, hdepth, hmax, hunused, hbase, -, hrest⟩ := h
  exact ⟨hwf, hl.trans hlen, hcur, hdepth, hmax, hunused, hbase, hr, hrest⟩

/-- The same for one port's registers. -/
theorem inv_modifyPort {p : Nat} {f : PortState → PortState} {resp : HostResp}
    (hf : ∀ q : PortState, q.resPtr.toNat < s.params.space → (f q).resPtr.toNat < s.params.space) (h : Inv s) :
    Inv { s with ports := s.ports.modify p f, resp := resp } := by
  refine inv_withPorts (by simp) (fun q hq => ?_) h
  obtain ⟨-, -, -, -, -, -, -, hptr, -⟩ := h
  obtain ⟨j, hj⟩ := List.mem_iff_getElem?.1 hq
  rw [List.getElem?_modify] at hj
  obtain ⟨q', hq', rfl⟩ := Option.map_eq_some_iff.1 hj
  have hlt := hptr q' (List.mem_of_getElem? hq')
  split
  · exact hf q' hlt
  · exact hlt

theorem inv_complete {c : Code} {v : U16} {x : Word} (hx : x.toNat < s.params.space) (h : Inv s) :
    Inv (s.complete c v x) :=
  inv_modifyPort (fun _ _ => hx) h

theorem inv_finish {v : U16} {x : Word} (hx : x.toNat < s.params.space) (h : Inv s) : Inv (s.finish v x) :=
  inv_complete (s := s.recordGhost) hx h

theorem inv_withBus {b : Bus} (hb : MemOk s.params.space s.bus.mem → MemOk s.params.space b.mem) (h : Inv s) :
    Inv (s.withBus b) := by
  obtain ⟨hwf, hlen, hcur, hdepth, hmax, hunused, hbase, hptr, hmem, hbound, hreset⟩ := h
  obtain ⟨hmem', hbound'⟩ := hb ⟨hmem, hbound⟩
  exact ⟨hwf, hlen, hcur, hdepth, hmax, hunused, hbase, hptr, hmem', hbound', hreset⟩

/-- On a configured block the mode, the cursors and SPAN are free. -/
theorem inv_withCursors (hc : s.configured = true) (ovw : Bool) (wr rd : U16) (k : Int) (h : Inv s) :
    Inv { s with ovw := ovw, wrIdx := wr, rdIdx := rd, span := k } := by
  obtain ⟨hwf, hlen, hcur, hdepth, hmax, hunused, hbase, hptr, hmem, hbound, -⟩ := h
  exact ⟨hwf, hlen, hcur, hdepth, hmax, hunused, hbase, hptr, hmem, hbound, fun hn => absurd (hc.symm.trans hn) (by decide)⟩

theorem inv_configureRegs {d : U16} {base : Nat} (hd : d.toNat ≤ Config.depthMax) (hb : base < s.params.space) (z : U16)
    (ow : Bool) (h : Inv s) : Inv (s.configureRegs d z base ow) := by
  obtain ⟨hwf, hlen, hcur, -, -, -, -, hptr, hmem, hbound, -⟩ := h
  exact ⟨hwf, hlen, hcur, hd, rfl, rfl, ofNat_toNat_lt_space _ hb, hptr, hmem, hbound, fun hn => absurd hn (by simp)⟩

theorem inv_clearRegs (hc : s.configured = true) (h : Inv s) : Inv s.clearRegs := by
  obtain ⟨hwf, hlen, hcur, hdepth, -, -, hbase, hptr, hmem, hbound, -⟩ := h
  exact ⟨hwf, hlen, hcur, hdepth, rfl, rfl, hbase, hptr, hmem, hbound, fun hn => absurd (hc.symm.trans hn) (by decide)⟩

theorem inv_correct (hc : s.configured = true) (h : Inv s) : Inv s.correct := inv_withCursors hc _ _ _ _ h

theorem inv_applyReset (h : Inv s) : Inv s.applyReset := by
  obtain ⟨hwf, -, -, -, -, -, -, -, hmem, hbound, -⟩ := h
  have ⟨_, _, hports, _⟩ := hwf
  refine ⟨hwf, by simp, hports, by simp, maxIndexOf_zero.symm, unusedOf_zero.symm, space_pos _, fun q hq => ?_, hmem, hbound,
    fun _ => ⟨rfl, rfl, rfl, rfl, rfl, rfl⟩⟩
  obtain ⟨_, -, rfl⟩ := List.mem_map.1 hq
  exact zero_lt_space _

end

theorem Effect.inv {s u : State} (h : Effect s u) : Inv s → Inv u := by
  induction h with
  | stay => exact id
  | configure hd hb z ow => exact inv_configureRegs hd hb z ow
  | clear hc => exact inv_clearRegs hc
  | setOvw hc => exact inv_withCursors hc _ _ _ _
  | corrected hc _ ih => exact ih ∘ inv_correct hc
  | copied hb _ ih => exact ih ∘ inv_withBus hb
  | advWr hc => exact inv_withCursors hc _ _ _ _
  | bwdWr hc => exact inv_withCursors hc _ _ _ _
  | advRd hc => exact inv_withCursors hc _ _ _ _
  | bwdRd hc => exact inv_withCursors hc _ _ _ _
  | overwrite hc => exact inv_withCursors hc _ _ _ _

theorem runWord_inv {w : Word} {s t : State} (hs : Inv s) (h : runWord w s = .next t) : Inv t := by
  rcases runWord_next_cases h with ⟨c, -, rfl⟩ | ⟨u, v, x, he, hx, rfl⟩
  · exact inv_complete (zero_lt_space _) hs
  · obtain ⟨-, -, hparams, -⟩ := he.frame
    exact inv_finish (hparams ▸ hx) (he.inv hs)

theorem hostWrite_inv {s : State} (addr width : Nat) (v : Word) (h : Inv s) : Inv (s.hostWrite addr width v) := by
  obtain ⟨ports, resp, e, rfl | ⟨p, k, rfl⟩⟩ := hostWrite_frame addr width v s <;> rw [e]
  · exact h
  · exact inv_modifyPort (fun q hq => by rwa [writeReg_resPtr]) h

theorem hostRead_inv {s : State} (addr width : Nat) (h : Inv s) : Inv (s.hostRead addr width) := by
  obtain ⟨resp, e⟩ := hostRead_frame addr width s
  rw [e]
  exact h

/-- Settles O44: everything a step can do keeps the invariant; for a command, its effect and its completion do. -/
theorem stepKeepsInvariant : Obligations.StepKeepsInvariant := by
  intro s t hs hstep
  have htaken : Inv s.takeEvent := hs
  cases step_next hstep with
  | idle => exact htaken
  | performed hp _ h => exact runWord_inv (inv_withCur (s := s.takeEvent) (List.getElem?_eq_some_iff.1 hp).1 htaken) h
  | hostWrite => exact hostWrite_inv _ _ _ htaken
  | hostRead => exact hostRead_inv _ _ htaken
  | masterWrite addr b => exact inv_withBus (MemOk.masterStore (addr, b)) htaken
  | reset => exact inv_applyReset htaken

/-! ## The contract and the exact count -/

/-- The cursors lie in the index space and SPAN is their distance modulo 2·DEPTH. Unlike `Tracked` this says nothing of the size
of SPAN, so a cursor movement keeps it whenever the moved cursor stays in the index space. -/
def SpanExact (s : State) : Prop :=
  s.depth ≠ 0 → s.wrIdx.toNat < 2 * s.depth.toNat ∧ s.rdIdx.toNat < 2 * s.depth.toNat ∧
    s.span ≡ s.wrIdx.toNat - s.rdIdx.toNat [ZMOD 2 * s.depth.toNat]

theorem contract_of_depth_zero {s : State} (h : s.depth = 0) : s.contract = true ↔ s.span = 0 ∧ s.wrIdx = s.rdIdx := by
  simp [State.contract, h]

theorem contract_of_depth_ne_zero {s : State} (h : s.depth ≠ 0) :
    s.contract = true ↔ s.wrIdx.toNat < 2 * s.depth.toNat ∧ s.rdIdx.toNat < 2 * s.depth.toNat ∧
      0 ≤ s.span ∧ s.span < 2 * s.depth.toNat := by
  unfold State.contract
  rw [if_neg h, decide_eq_true_iff]

/-- On cursors in the index space the raw count is the one number below 2·DEPTH congruent to their distance (R123). -/
theorem rawCount_modEq {s : State} (hs : Inv s) (h0 : s.depth ≠ 0) (hw : s.wrIdx.toNat < 2 * s.depth.toNat)
    (hr : s.rdIdx.toNat < 2 * s.depth.toNat) :
    s.rawCount.toNat < 2 * s.depth.toNat ∧
      (s.rawCount.toNat : ℤ) ≡ s.wrIdx.toNat - s.rdIdx.toNat [ZMOD 2 * s.depth.toNat] := by
  obtain ⟨-, -, -, hd, -, hu, -⟩ := hs
  rw [State.rawCount, hu]
  exact ⟨rawcnt_lt h0 hd hw hr, rawcnt_modEq h0 hd hw hr⟩

theorem spanExact_of_rawCount_eq {s : State} (hs : Inv s) (hc : s.contract = true) (he : (s.rawCount.toNat : Int) = s.span) :
    SpanExact s := by
  intro h0
  obtain ⟨hw, hr, -⟩ := (contract_of_depth_ne_zero h0).1 hc
  exact ⟨hw, hr, he ▸ (rawCount_modEq hs h0 hw hr).2⟩

theorem rawCount_eq_of_spanExact {s : State} (hs : Inv s) (hc : s.contract = true) (h : SpanExact s) :
    (s.rawCount.toNat : Int) = s.span := by
  by_cases h0 : s.depth = 0
  · obtain ⟨hspan, hidx⟩ := (contract_of_depth_zero h0).1 hc
    simp [hspan, State.rawCount, rawcnt, hidx]
  · obtain ⟨hw, hr, hmod⟩ := h h0
    obtain ⟨-, -, hlo, hhi⟩ := (contract_of_depth_ne_zero h0).1 hc
    obtain ⟨hlt, hcnt⟩ := rawCount_modEq hs h0 hw hr
    have hsame : (s.rawCount.toNat : ℤ) % (2 * s.depth.toNat) = s.span % (2 * s.depth.toNat) := hcnt.trans hmod.symm
    rwa [Int.emod_eq_of_lt (by omega) (by omega), Int.emod_eq_of_lt hlo hhi] at hsame

/-- Moving the write cursor by n moves its distance from the read cursor by n. -/
theorem modEq_add_of_wr {m k w w' r n : ℤ} (h : k ≡ w - r [ZMOD m]) (hw : w' ≡ w + n [ZMOD m]) :
    k + n ≡ w' - r [ZMOD m] :=
  calc k + n ≡ w - r + n [ZMOD m] := h.add_right n
    _ = w + n - r := by ring
    _ ≡ w' - r [ZMOD m] := (hw.sub_right r).symm

/-- Moving the read cursor by n moves its distance from the write cursor by -n. -/
theorem modEq_sub_of_rd {m k w r r' n : ℤ} (h : k ≡ w - r [ZMOD m]) (hr : r' ≡ r + n [ZMOD m]) :
    k - n ≡ w - r' [ZMOD m] :=
  calc k - n ≡ w - r - n [ZMOD m] := h.sub_right n
    _ = w - (r + n) := by ring
    _ ≡ w - r' [ZMOD m] := (hr.symm.sub_left w)

section
variable {s : State}

theorem adv_modEq_of_inv (hs : Inv s) (h0 : s.depth ≠ 0) {p : U16} (hp : p.toNat < 2 * s.depth.toNat) (n : U16) :
    ((s.adv p n).toNat : ℤ) ≡ p.toNat + n.toNat [ZMOD 2 * s.depth.toNat] := by
  obtain ⟨-, -, -, hd, hm, hu, -⟩ := hs
  rw [State.adv, hm, hu]
  exact adv_modEq h0 hd hp n

/-- A BWD whose result is in the index space is subtraction modulo 2·DEPTH. -/
theorem bwd_modEq_of_inv (hs : Inv s) (h0 : s.depth ≠ 0) {p n : U16} (hp : p.toNat < 2 * s.depth.toNat)
    (hr : (s.bwd p n).toNat < 2 * s.depth.toNat) :
    ((s.bwd p n).toNat : ℤ) ≡ p.toNat + -n.toNat [ZMOD 2 * s.depth.toNat] := by
  obtain ⟨-, -, -, hd, hm, hu, -⟩ := hs
  rw [State.bwd, hm, hu] at hr ⊢
  exact bwd_modEq h0 hd hp (le_of_bwd_lt h0 hd hr)

/-- The corrected read cursor is in the index space (42_overflow.md R141). -/
theorem bwd_depth_lt (hs : Inv s) (h0 : s.depth ≠ 0) (hw : s.wrIdx.toNat < 2 * s.depth.toNat) :
    (s.bwd s.wrIdx s.depth).toNat < 2 * s.depth.toNat := by
  obtain ⟨-, -, -, hd, hm, hu, -⟩ := hs
  rw [State.bwd, hm, hu, bwd_toNat h0 hd hw (by omega)]
  split <;> omega

theorem spanExact_correct (hs : Inv s) (h : SpanExact s) : SpanExact s.correct := by
  intro h0
  obtain ⟨hw, -, -⟩ := h h0
  have hlt := bwd_depth_lt hs h0 hw
  refine ⟨hw, hlt, ?_⟩
  have hr := bwd_modEq_of_inv hs h0 hw hlt
  simpa using modEq_sub_of_rd (k := 0) (by rw [sub_self]) hr

theorem spanExact_of_cursors_equal (hw : s.wrIdx = 0) (hr : s.rdIdx = 0) (hk : s.span = 0) : SpanExact s := by
  intro h0
  have hpos : 0 < s.depth.toNat := Nat.pos_of_ne_zero fun e => h0 (BitVec.eq_of_toNat_eq e)
  refine ⟨by simpa [hw] using hpos, by simpa [hr] using hpos, ?_⟩
  simp [hw, hr, hk]

end

/-- An effect that leaves the contract standing has moved SPAN exactly as it moved the cursors (10_state.md R33, R34). -/
theorem Effect.spanExact {s u : State} (h : Effect s u) (hs : Inv s) (hk : SpanExact s) (hc : u.contract = true) :
    SpanExact u := by
  induction h with
  | stay => exact hk
  | configure => exact spanExact_of_cursors_equal rfl rfl rfl
  | clear => exact spanExact_of_cursors_equal rfl rfl rfl
  | setOvw => exact hk
  | corrected hconf _ ih => exact ih (inv_correct hconf hs) (spanExact_correct hs hk) hc
  | copied hb _ ih => exact ih (inv_withBus hb hs) hk hc
  | advWr _ n =>
    intro h0
    obtain ⟨hw, -, hmod⟩ := hk h0
    obtain ⟨hw', hr', -⟩ := (contract_of_depth_ne_zero h0).1 hc
    exact ⟨hw', hr', modEq_add_of_wr hmod (adv_modEq_of_inv hs h0 hw n)⟩
  | bwdWr _ n =>
    intro h0
    obtain ⟨hw, -, hmod⟩ := hk h0
    obtain ⟨hw', hr', -⟩ := (contract_of_depth_ne_zero h0).1 hc
    exact ⟨hw', hr', modEq_add_of_wr hmod (bwd_modEq_of_inv hs h0 hw hw')⟩
  | advRd _ n =>
    intro h0
    obtain ⟨-, hr, hmod⟩ := hk h0
    obtain ⟨hw', hr', -⟩ := (contract_of_depth_ne_zero h0).1 hc
    exact ⟨hw', hr', modEq_sub_of_rd hmod (adv_modEq_of_inv hs h0 hr n)⟩
  | bwdRd _ n =>
    intro h0
    obtain ⟨-, hr, hmod⟩ := hk h0
    obtain ⟨hw', hr', -⟩ := (contract_of_depth_ne_zero h0).1 hc
    have hspan := modEq_sub_of_rd hmod (bwd_modEq_of_inv hs h0 hr hr')
    rw [sub_neg_eq_add] at hspan
    exact ⟨hw', hr', hspan⟩
  | overwrite =>
    intro h0
    obtain ⟨-, hr, -⟩ := hk h0
    obtain ⟨hw', hr', -⟩ := (contract_of_depth_ne_zero h0).1 hc
    refine ⟨hw', hr', ?_⟩
    simpa using modEq_add_of_wr (k := 0) (by rw [sub_self]) (adv_modEq_of_inv hs h0 hr _)

theorem finish_tracked {s u : State} {v : U16} {x : Word} (he : Effect s u) (hs : Inv s) (ht : Tracked s) :
    Tracked (u.finish v x) := by
  intro hg
  obtain ⟨-, -, -, -, -, hghost⟩ := he.frame
  obtain ⟨hno, hc⟩ : s.ghostFault = false ∧ u.contract = true := by simpa [State.finish, hghost] using hg
  obtain ⟨hc0, hcount⟩ := ht hno
  have hk : SpanExact u := he.spanExact hs (spanExact_of_rawCount_eq hs hc0 hcount) hc
  have hcount' := rawCount_eq_of_spanExact (he.inv hs) hc hk
  exact ⟨hc, hcount'⟩

theorem runWord_tracked {w : Word} {s t : State} (hs : Inv s) (ht : Tracked s) (h : runWord w s = .next t) : Tracked t := by
  rcases runWord_next_cases h with ⟨c, -, rfl⟩ | ⟨u, v, x, he, -, rfl⟩
  · exact ht
  · exact finish_tracked he hs ht

/-- Settles O46: only a command moves the cursors or SPAN, and its effect keeps SPAN the cursors' distance modulo 2·DEPTH, which
the contract makes the raw count itself. -/
theorem stepKeepsCountExact : Obligations.StepKeepsCountExact := by
  intro s t hs ht hstep
  have htaken : Inv s.takeEvent := hs
  cases step_next hstep with
  | idle => exact ht
  | performed hp _ h =>
    exact runWord_tracked (inv_withCur (s := s.takeEvent) (List.getElem?_eq_some_iff.1 hp).1 htaken) ht h
  | hostWrite addr width v =>
    obtain ⟨ports, resp, e, -⟩ := hostWrite_frame addr width v s.takeEvent
    rw [e]
    exact ht
  | hostRead addr width =>
    obtain ⟨resp, e⟩ := hostRead_frame addr width s.takeEvent
    rw [e]
    exact ht
  | masterWrite => exact ht
  | reset => exact fun _ => ⟨rfl, by simp [State.rawCount, rawcnt]⟩

end Sys2Proof.Machine
end

section
/-! Proofs of the state family (10_state.md), second part: completion, the ghost fault, the engine and the host's registers. -/

namespace Sys2Proof.Machine

open Sys2Proof

/-! ## Completion and the ghost fault -/

/-- Settles O10: a word that answers a next state completes its port (10_state.md R31). -/
theorem completionWritesOwnPortOnly : Obligations.CompletionWritesOwnPortOnly := by
  intro w s t h hcur
  obtain ⟨c, v, x, hports, herr⟩ := runWord_completes h
  rw [hports]
  exact ⟨complete_ports_length s c v x, fun q hq => complete_ports_get_other hq, c, v, x, complete_ports_get_cur hcur, herr⟩

/-- No command clears a recorded ghost fault. -/
theorem runWord_ghostFault {w : Word} {s t : State} (h : runWord w s = .next t) (hg : s.ghostFault = true) :
    t.ghostFault = true := by
  rcases runWord_next_cases h with ⟨c, -, rfl⟩ | ⟨u, v, x, he, -, rfl⟩
  · exact hg
  · obtain ⟨-, -, -, -, -, hghost⟩ := he.frame
    simp [State.finish, hghost, hg]

/-- Settles O47: of everything a step can do only the reset writes `false` to the ghost fault. -/
theorem ghostFaultSticks : Obligations.GhostFaultSticks := by
  intro s t hstep hg
  cases step_next hstep with
  | idle => exact .inl hg
  | performed _ _ h => exact .inl (runWord_ghostFault h hg)
  | hostWrite addr width v =>
    obtain ⟨ports, resp, e, -⟩ := hostWrite_frame addr width v s.takeEvent
    exact .inl (e ▸ hg)
  | hostRead addr width =>
    obtain ⟨resp, e⟩ := hostRead_frame addr width s.takeEvent
    exact .inl (e ▸ hg)
  | masterWrite => exact .inl hg
  | reset h => exact .inr ⟨_, h⟩

/-! ## The engine -/

/-- A performance step leaves one fewer port BUSY. -/
theorem countP_busy_of_performed {s t : State} {p : Nat} {port : PortState} {w : Word} (hp : s.ports[p]? = some port)
    (hw : port.pending = some w) (h : runWord w { s with cur := p } = .next t) :
    t.ports.countP PortState.busy + 1 = s.ports.countP PortState.busy := by
  obtain ⟨c, v, x, hports, -⟩ := runWord_completes h
  rw [hports]
  exact countP_busy_complete (s := { s with cur := p }) hp (by simp [PortState.busy, hw]) c v x

/-- Settles O54: the drain performs some port's pending command, or no port has a performance step. -/
theorem idleEnginePerformsPendingCommands : Obligations.IdleEnginePerformsPendingCommands := by
  intro s ha
  rw [step_of_agenda_nil ha]
  rcases drain_cases s with ⟨p, o, hperf, hdrain⟩ | ⟨hnone, hdrain⟩
  · obtain ⟨port, w, t, hp, hw, hrun, rfl⟩ := perform_some hperf
    refine ⟨fun _ => ⟨p, port, w, t, hp, hw, hrun, hperf, hdrain, countP_busy_of_performed hp hw hrun⟩, fun hnone => ?_⟩
    exact absurd (hperf.symm.trans (hnone p)) (by simp)
  · exact ⟨fun ⟨p, hp⟩ => absurd hp (by simp [hnone p]), fun _ => hdrain⟩

section
variable {s : State} {p : Nat} {rest : List Event} {port : PortState} {w : Word} (ha : s.agenda = .grant p :: rest)
  (hp : s.ports[p]? = some port) (hw : port.pending = some w)
include ha hp hw

/-- A granted word that answers a next state is the step. -/
theorem step_of_grant_next {t : State} (h : runWord w { s with agenda := rest, cur := p } = .next t) : step s = .next t := by
  rw [step_of_agenda_cons ha]
  simp only [handle, perform_of_next (s := { s with agenda := rest }) hp hw h, Option.getD_some]

/-- A granted command with an access that is not admitted is passed over (20_memory.md R54; log 6). -/
theorem step_of_grant_stuck (h : runWord w { s with agenda := rest, cur := p } = .fault .notAdmitted) :
    step s = .next { s with agenda := rest } := by
  rw [step_of_agenda_cons ha]
  simp only [handle, perform_of_stuck (s := { s with agenda := rest }) hp hw h, Option.getD_none]

end

theorem fetchPort_lt {P : Params} (h : 1 ≤ P.nports) : fetchPort P < P.nports := by
  unfold fetchPort
  split
  · next hc => exact List.idxOf_lt_length_of_mem (List.contains_iff_mem.1 hc)
  · exact h

theorem decode_tableWord {nbits w : Nat} {i : Instr} (h : decodeTableWord nbits w = some i) :
    decode (tableWord nbits w) = .instr i := by
  unfold decodeTableWord at h
  split at h
  · next hd => exact Option.some.inj h ▸ hd
  · cases h

/-- The port `withFetchWord` chooses holds the table word. -/
theorem withFetchWord_port {s : State} (hl : s.ports.length = s.params.nports) (hn : 1 ≤ s.params.nports) (nbits w : Nat) :
    ∃ port, (s.withFetchWord nbits w).ports[fetchPort s.params]? = some port ∧
      port.pending = some (tableWord nbits w) := by
  have hlt : fetchPort s.params < s.ports.length := hl ▸ fetchPort_lt hn
  refine ⟨{ s.ports[fetchPort s.params] with pending := some (tableWord nbits w) }, ?_, rfl⟩
  simp [State.withFetchWord, hlt]

/-- Settles O5: a grant performs the port's pending word; `withFetchWord` places a word and its grant. -/
theorem stepPerformsGrantedCommand : Obligations.StepPerformsGrantedCommand := by
  refine ⟨fun s p rest port w ha hp hw => ⟨fun i hi => ⟨fun t ht => ?_, fun hstuck => ?_⟩, fun why hi => ?_⟩,
    fun s nbits w i t hl hn hi ht => ?_⟩
  · exact step_of_grant_next ha hp hw ((runWord_of_instr hi _).trans ht)
  · exact step_of_grant_stuck ha hp hw ((runWord_of_instr hi _).trans hstuck)
  · exact step_of_grant_next ha hp hw (runWord_of_illegal hi _)
  · obtain ⟨port, hp, hw⟩ := withFetchWord_port hl hn nbits w
    exact step_of_grant_next rfl hp hw ((runWord_of_instr (decode_tableWord hi) _).trans ht)

/-! ## The host's registers -/

section
variable {s : State} {p off : Nat} {q : PortState} {rest : List Event} (hb : s.params.portBase % 4 = 0)
  (hl : s.ports.length = s.params.nports) (hq : s.ports[p]? = some q) (ho : off < 0x20) (ha : off % 4 = 0)
include hb hl hq ho ha

/-- A host write of a register of port p is `writeReg` on that port (10_state.md R29, R30). -/
theorem step_hostWrite_register {v : Word} {q' : PortState} (e : q.writeReg v (off / 4) = q') :
    step { s with agenda := .hostWrite (s.params.portBase + 0x20 * p + off) 4 v :: rest } =
      .next { s with agenda := rest, ports := s.ports.set p q', resp := .written } := by
  obtain ⟨hlt, rfl⟩ := List.getElem?_eq_some_iff.1 hq
  subst e
  rw [step_of_agenda_cons rfl]
  simp only [handle, State.hostWrite, hostTarget_register hb (hl ▸ hlt) ho ha, List.modify_eq_set_get _ hlt,
    List.get_eq_getElem]

/-- A host read of a register of port p answers `readReg` of that port (10_state.md R29). -/
theorem step_hostRead_register {v : Word} (e : q.readReg (off / 4) = v) :
    step { s with agenda := .hostRead (s.params.portBase + 0x20 * p + off) 4 :: rest } =
      .next { s with agenda := rest, resp := .data v } := by
  obtain ⟨hlt, -⟩ := List.getElem?_eq_some_iff.1 hq
  rw [step_of_agenda_cons rfl]
  simp only [handle, State.hostRead, hostTarget_register hb (hl ▸ hlt) ho ha, List.getD_eq_getElem?_getD, hq,
    Option.getD_some, e]

end

theorem writeReg_of_busy {q : PortState} (h : q.busy = true) (v : Word) (k : Nat) : q.writeReg v k = q := if_pos h

/-- While BUSY = 0 the four writable registers take the value (10_state.md R29, R30). -/
theorem writeReg_of_idle {q : PortState} (h : q.busy = false) (v : Word) :
    q.writeReg v 0 = { q with pending := some v } ∧ q.writeReg v 1 = { q with argA := v.setWidth 16 } ∧
      q.writeReg v 2 = { q with argB := v.setWidth 16 } ∧ q.writeReg v 3 = { q with argAddr := v } := by
  simp [PortState.writeReg, h]

/-- STATUS, the results and the reserved word are read-only (10_state.md R29). -/
theorem writeReg_readOnly (q : PortState) (v : Word) (k : Nat) : q.writeReg v (k + 4) = q := by
  unfold PortState.writeReg
  split <;> rfl

/-- Settles O49: `writeReg` takes the four writable registers while BUSY = 0 and ignores every other write. -/
theorem hostWritesIssueAndAreIgnoredWhileBusy : Obligations.HostWritesIssueAndAreIgnoredWhileBusy := by
  intro s p v q rest hb hl hq
  have becomes {off : Nat} {q' : PortState} (e : q.writeReg v (off / 4) = q')
      (ho : off < 0x20 ∧ off % 4 = 0 := by decide) := step_hostWrite_register (rest := rest) hb hl hq ho.1 ho.2 e
  refine ⟨fun hidle => ?_, fun hbusy => ?_, ?_, ?_, ?_, ?_⟩
  · obtain ⟨hcmd, hargA, hargB, hargAddr⟩ := writeReg_of_idle hidle v
    exact ⟨becomes hcmd, becomes hargA, becomes hargB, becomes hargAddr⟩
  · have ignored := writeReg_of_busy hbusy v
    exact ⟨becomes (ignored 0), becomes (ignored 1), becomes (ignored 2), becomes (ignored 3)⟩
  · exact becomes (writeReg_readOnly q v 0)
  · exact becomes (writeReg_readOnly q v 1)
  · exact becomes (writeReg_readOnly q v 2)
  · exact becomes (writeReg_readOnly q v 3)

/-- STATUS by whether a command is pending: BUSY is bit 8 (10_state.md R29, R32). -/
theorem status_eq (q : PortState) :
    q.status = BitVec.ofNat 32 (q.code.toNat + (if q.pending = none then 0 else 256)) := by
  unfold PortState.status PortState.busy
  cases q.pending <;> rfl

/-- Settles O50: `readReg` gives each register's value, and STATUS the code's number and BUSY. -/
theorem hostReadsReturnTheRegisters : Obligations.HostReadsReturnTheRegisters := by
  intro s p q rest hb hl hq
  have reads {off : Nat} {v : Word} (e : q.readReg (off / 4) = v)
      (ho : off < 0x20 ∧ off % 4 = 0 := by decide) := step_hostRead_register (rest := rest) hb hl hq ho.1 ho.2 e
  refine ⟨reads rfl, ?_, ?_, ?_, fun c n hmem hcode => ?_, ?_, ?_, reads rfl⟩
  · exact reads (BitVec.ofNat_toNat 32 q.argA).symm
  · exact reads (BitVec.ofNat_toNat 32 q.argB).symm
  · exact reads (by simp [PortState.readReg])
  · obtain ⟨_, -, e⟩ := List.mem_map.1 (show (c, n) ∈
      [Code.ok, .illegal, .unconfigured, .capability, .align, .contract, .depthZero].map fun c => (c, c.toNat) from hmem)
    cases e
    exact reads (hcode ▸ status_eq q)
  · exact reads (BitVec.ofNat_toNat 32 q.resVal).symm
  · exact reads (by simp [PortState.readReg])

end Sys2Proof.Machine
end

section
/-! Facts of the memory family (20_memory.md), first part: which accesses a copy makes, and where it stores. -/

namespace Sys2Proof.Machine

open Sys2Proof

/-! ## Addresses -/

@[simp] theorem laneAddrs_mod_space (P : Params) (a n : Nat) : laneAddrs P (a % P.space) n = laneAddrs P a n := by
  simp [laneAddrs]

@[simp] theorem ba_mod_space (g : Store) (rel0 t : Nat) : g.ba rel0 t % g.params.space = g.ba rel0 t :=
  Nat.mod_mod _ _

/-- The addresses the write accesses of a list reach. -/
def storesOf (P : Params) (xs : List Shape) : List Nat :=
  xs.flatMap fun x => if x.write then laneAddrs P x.addr x.width else []

theorem storesOf_append (P : Params) (xs ys : List Shape) : storesOf P (xs ++ ys) = storesOf P xs ++ storesOf P ys :=
  List.flatMap_append

theorem byteAt_of_read_eq {b c : Bus} {a : Nat} (h : Memory.read c.mem a = Memory.read b.mem a) :
    c.byteAt a = b.byteAt a := by
  simp only [Bus.byteAt, h]

/-! ## A piece of a copy and its accesses -/

/-- A piece of a copy that goes from b to r makes the accesses xs, in order: it goes through exactly when all are admitted; then
it has recorded them, and a byte that none of them stores to and no other master writes is as before. -/
structure Makes (P : Params) (xs : List Shape) (b : Bus) (r : Option Bus) : Prop where
  isSome_eq : r.isSome = xs.all (Shape.admitted P)
  log_eq : ∀ c, r = some c → c.log.map Access.shape = xs.reverse ++ b.log.map Access.shape
  frame : ∀ c, r = some c → ∀ a, a ∉ b.raced P → a ∉ storesOf P xs → c.byteAt a = b.byteAt a ∧ a ∉ c.raced P

section
variable {P : Params} {xs ys : List Shape} {b : Bus}

theorem Makes.nil (b : Bus) : Makes P [] b (some b) where
  isSome_eq := rfl
  log_eq c h := by simp [Option.some.inj h]
  frame c h a hr _ := Option.some.inj h ▸ ⟨rfl, hr⟩

/-- Two pieces, one after the other. The first may answer more than the bus, which the second then uses. -/
theorem Makes.bind {α : Type} {bus : α → Bus} {r : Option α} {f : α → Option Bus} (h : Makes P xs b (r.map bus))
    (hf : ∀ x, r = some x → Makes P ys (bus x) (f x)) : Makes P (xs ++ ys) b (r.bind f) := by
  cases r with
  | none =>
    have hsome : false = xs.all (Shape.admitted P) := h.isSome_eq
    exact ⟨by simp [List.all_append, ← hsome], by simp, by simp⟩
  | some x =>
    have hx := hf x rfl
    have hsome : true = xs.all (Shape.admitted P) := h.isSome_eq
    refine ⟨?_, fun c hc => ?_, fun c hc a hr hs => ?_⟩
    · rw [List.all_append, ← hsome, Bool.true_and, ← hx.isSome_eq, Option.bind_some]
    · rw [hx.log_eq c hc, h.log_eq _ rfl, List.reverse_append, List.append_assoc]
    · rw [storesOf_append, List.mem_append, not_or] at hs
      obtain ⟨hmid, hrmid⟩ := h.frame _ rfl a hr hs.1
      obtain ⟨hend, hrend⟩ := hx.frame c hc a hrmid hs.2
      exact ⟨hend.trans hmid, hrend⟩

/-- A loop makes the accesses of its passes, in order. -/
theorem Makes.upTo {body : Nat → Bus → Option Bus} {shapes : Nat → List Shape} (n : Nat)
    (h : ∀ k c, Makes P (shapes k) c (body k c)) : Makes P ((List.range n).flatMap shapes) b (upTo body n b) := by
  induction n with
  | zero => exact .nil b
  | succ n ih =>
    rw [List.range_succ, List.flatMap_append, List.flatMap_singleton, upTo_succ]
    exact Makes.bind (bus := id) (by rwa [Option.map_id_fun, id]) fun c _ => h n c

/-- A read access (20_memory.md R51, R54). -/
theorem Makes.read (a n : Nat) : Makes P [⟨false, a % P.space, n⟩] b ((b.readAccess P a n).map Prod.snd) where
  isSome_eq := by simp [Bus.readAccess_isSome, Shape.admitted]
  log_eq c h := by
    obtain ⟨r, hr, rfl⟩ := Option.map_eq_some_iff.1 h
    obtain ⟨-, hlen, -, -, hlog, -⟩ := Bus.readAccess_cases hr
    simp [hlog, Access.shape, hlen]
  frame c h x hx _ := by
    obtain ⟨r, hr, rfl⟩ := Option.map_eq_some_iff.1 h
    obtain ⟨-, -, hmem, hrace, -⟩ := Bus.readAccess_cases hr
    exact ⟨byteAt_of_read_eq (by rw [hmem, Bus.arrive_read_other hx]), Bus.raced_tail hrace hx⟩

/-- A write access (20_memory.md R51, R54). -/
theorem Makes.write (a : Nat) (bytes : List Byte) :
    Makes P [⟨true, a % P.space, bytes.length⟩] b (b.writeAccess P a bytes) where
  isSome_eq := by simp [Bus.writeAccess_isSome, Shape.admitted]
  log_eq c h := by
    obtain ⟨-, -, -, hlog, -⟩ := Bus.writeAccess_cases h
    simp [hlog, Access.shape]
  frame c h x hx hs := by
    obtain ⟨-, hmem, hrace, -⟩ := Bus.writeAccess_cases h
    have hout : x ∉ laneAddrs P a bytes.length := by simpa [storesOf] using hs
    exact ⟨byteAt_of_read_eq (by rw [hmem, storeLanes_read_other _ _ hout, Bus.arrive_read_other hx]),
      Bus.raced_tail hrace hx⟩

end

/-! ## The accesses of PUSH and PULL -/

/-- One byte read and stored, the pass of both INC copies (20_memory.md R55, R57). -/
theorem makes_copyByte (P : Params) (src dst : Nat) (b : Bus) :
    Makes P [⟨false, src % P.space, 1⟩, ⟨true, dst % P.space, 1⟩] b
      ((b.readAccess P src 1).bind fun r => r.2.writeAccess P dst r.1) := by
  refine (Makes.read src 1).bind fun r hr => ?_
  obtain ⟨-, hlen, -⟩ := Bus.readAccess_cases hr
  simpa only [hlen] using Makes.write (P := P) (b := r.2) dst r.1

/-- Mapping the members that pass a test is one pass of a loop each, which does nothing for the others. -/
theorem map_filter_eq_flatMap {α β : Type} (p : α → Bool) (f : α → β) (l : List α) :
    (l.filter p).map f = l.flatMap fun x => if p x then [f x] else [] := by
  induction l with
  | nil => rfl
  | cons x l ih => by_cases h : p x <;> simp [h, ih]

/-- The stores of one stream word in PUSH's CONST mode (20_memory.md R56). -/
theorem makes_pushLanes (g : Store) (rel0 S T i : Nat) (word : List Byte) (b : Bus) :
    Makes g.params
      (((List.range 4).filter fun j => S ≤ 4 * i + j ∧ 4 * i + j < T).map fun j => ⟨true, g.ba rel0 (4 * i + j - S), 1⟩) b
      (pushLanes g rel0 S T i word b) := by
  rw [map_filter_eq_flatMap]
  refine Makes.upTo 4 fun j c => ?_
  by_cases h : S ≤ 4 * i + j ∧ 4 * i + j < T
  · simpa [Config.constWord, h] using
      Makes.write (P := g.params) (b := c) (g.ba rel0 (4 * i + j - S)) [word.getD j 0]
  · simpa only [Config.constWord, h, decide_false, if_false, Bool.false_eq_true] using Makes.nil (P := g.params) c

/-- The reads of one stream word in PULL's CONST mode (20_memory.md R58). -/
theorem makes_pullLanes (g : Store) (rel0 L i k : Nat) (b : Bus) :
    Makes g.params (((List.range k).filter fun j => 4 * i + j < L).map fun j => ⟨false, g.ba rel0 (4 * i + j), 1⟩) b
      ((pullLanes g rel0 L i k b).map Prod.snd) := by
  induction k with
  | zero => exact .nil b
  | succ k ih =>
    rw [pullLanes, Option.map_bind, List.range_succ, List.filter_append, List.map_append]
    refine ih.bind fun r _ => ?_
    by_cases h : 4 * i + k < L
    · have hread := Makes.read (P := g.params) (b := r.2) (g.ba rel0 (4 * i + k)) 1
      simpa [Config.constWord, h, Function.comp_def] using hread
    · simpa [Config.constWord, h] using Makes.nil (P := g.params) r.2

/-- A copy call, performed (20_memory.md R55 to R58). -/
def CopyCall.run (g : Store) : CopyCall → Bus → Option Bus
  | .push cm xa rel0 n skip => Machine.push g cm xa rel0 n skip
  | .pull cm xa rel0 n => Machine.pull g cm xa rel0 n

/-- A copy makes exactly the accesses of its shapes (20_memory.md R59). -/
theorem CopyCall.makes (g : Store) (call : CopyCall) (b : Bus) : Makes g.params (call.shapes g) b (call.run g b) := by
  rcases call with ⟨_ | _, xa, rel0, n, skip⟩ | ⟨_ | _, xa, rel0, n⟩
  · refine Makes.upTo _ fun t c => ?_
    simpa only [ba_mod_space] using makes_copyByte g.params (xa + skip * g.isize + t) (g.ba rel0 t) c
  · refine Makes.upTo _ fun i c => ?_
    exact (Makes.read xa 4).bind fun r _ => makes_pushLanes g rel0 _ _ i r.1 r.2
  · refine Makes.upTo _ fun t c => ?_
    simpa only [ba_mod_space] using makes_copyByte g.params (g.ba rel0 t) (xa + t) c
  · refine Makes.upTo _ fun i c => ?_
    refine (makes_pullLanes g rel0 _ i 4 c).bind fun r hr => ?_
    obtain ⟨-, hlen⟩ := pullLanes_rule (fun _ => True) (fun _ _ _ _ _ _ => trivial) 4 trivial hr
    simpa only [hlen] using Makes.write (P := g.params) (b := r.2) xa r.1

/-- Each word of a CONST-mode PUSH is one read (20_memory.md R59). -/
theorem countP_read_pushConst (g : Store) (xa rel0 n skip : Nat) :
    ((CopyCall.push .const xa rel0 n skip).shapes g).countP (fun x => !x.write) =
      streamWords (skip * g.isize + n * g.isize) := by
  simp [CopyCall.shapes, List.countP_flatMap, Function.comp_def, List.countP_map]

/-- Each word of a CONST-mode PULL is one write (20_memory.md R59). -/
theorem countP_write_pullConst (g : Store) (xa rel0 n : Nat) :
    ((CopyCall.pull .const xa rel0 n).shapes g).countP (fun x => x.write) = streamWords (n * g.isize) := by
  simp [CopyCall.shapes, List.countP_flatMap, Function.comp_def, List.countP_map]

end Sys2Proof.Machine
end

section
/-! Proofs of the memory family (20_memory.md), first part: every command makes exactly the accesses of the one copy it calls,
and what follows for admission, the record of accesses and the memory frame. -/

namespace Sys2Proof.Machine

open Sys2Proof

/-! ## The copy of a command -/

/-- What stands behind the memory port after the copy that command i calls in state s; `none` where it is stuck. -/
def copied (i : Instr) (s : State) : Option Bus :=
  ((copyCall i s).map fun call => call.run s.store s.bus).getD (some s.bus)

/-- A passed command makes the accesses of its shapes (20_memory.md R59). -/
theorem makes_copied (i : Instr) (s : State) : Makes s.params (commandShapes i s) s.bus (copied i s) := by
  unfold copied commandShapes
  cases copyCall i s with
  | none => exact .nil s.bus
  | some call => exact call.makes s.store s.bus

theorem copied_isSome_iff (i : Instr) (s : State) : (copied i s).isSome = true ↔ Admitted i s := by
  rw [(makes_copied i s).isSome_eq, List.all_eq_true]

/-- The outcome of a command whose copy leaves the given bus: no performance step where there is none (20_memory.md R54),
otherwise a next state with that bus. -/
inductive Leaves : Option Bus → Host.Outcome State Fault Refusal → Prop
  | stuck : Leaves none (.fault .notAdmitted)
  | next {b : Bus} {t : State} (h : t.bus = b) : Leaves (some b) (.next t)

section
variable {i : Instr} {s : State}

theorem Leaves.of_passes {r : Option Bus} {body : State → Host.Outcome State Fault Refusal} (hp : Passes i s)
    (h : Leaves r (body s)) : Leaves r (prologue i s body) :=
  prologue_of_passes body hp ▸ h

/-- A command that calls no copy completes with the bus as it was. -/
theorem Leaves.of_no_call {t : State} (hcall : copyCall i s = none) (ht : t.bus = s.bus) :
    Leaves (copied i s) (.next t) := by
  rw [copied, hcall]
  exact .next ht

/-- A command that calls a copy goes on after it and leaves the bus alone from there. -/
theorem Leaves.of_call {call : CopyCall} {u : State} {f : State → State} (hcall : copyCall i s = some call)
    (hf : ∀ t, (f t).bus = t.bus) :
    Leaves (copied i s) (afterCopy u (call.run s.store s.bus) fun t => .next (f t)) := by
  rw [copied, hcall]
  change Leaves (call.run s.store s.bus) _
  cases call.run s.store s.bus with
  | none => exact .stuck
  | some b => exact .next (hf _)

end

/-! ## CHECK_CORRECT and the copy -/

section
variable (s : State)

@[simp] theorem checkCorrect_bus : (checkCorrect s).st.bus = s.bus := by rw [checkCorrect_frame]

@[simp] theorem checkCorrect_store : (checkCorrect s).st.store = s.store := by
  rw [checkCorrect_frame]
  rfl

@[simp] theorem checkCorrect_rel (p o : U16) : (checkCorrect s).st.rel p o = s.rel p o := by
  rw [checkCorrect_frame]
  rfl

/-- The count CHECK_CORRECT gives leaves `itemsFrom` items from offset o on (44_read_path.md R181, R183). -/
theorem itemsFrom_eq (o n : Nat) : itemsFrom s o n = min n ((checkCorrect s).c.toNat - o) := by
  rw [checkCorrect_c, itemsFrom]

end

/-! ## The commands that call a copy -/

section
variable {c : Prop} [Decidable c] {rel : Option Nat} {call : Nat → CopyCall}

/-- The shape of every copy call: where there are items to move and REL gives the slot. -/
theorem call_of_rel_none (hc : ¬ c) (hr : rel = none) : (if c then none else rel.map call) = none := by
  rw [if_neg hc, hr, Option.map_none]

theorem call_of_rel_some {slot : Nat} (hc : ¬ c) (hr : rel = some slot) :
    (if c then none else rel.map call) = some (call slot) := by
  rw [if_neg hc, hr, Option.map_some]

end

section
variable {s : State}

theorem execWrite_leaves (hp : Passes .write s) : Leaves (copied .write s) (execWrite s) := by
  refine .of_passes hp ?_
  split
  · next hfull => exact .of_no_call (if_pos hfull) rfl
  · next hfull =>
    split
    · next hrel => exact .of_no_call (call_of_rel_none hfull hrel) rfl
    · next wrel hrel =>
      exact .of_call (call := .push .inc s.opX wrel 1 0) (call_of_rel_some hfull hrel) fun _ => rfl

theorem execWriteN_leaves {cm : CopyMode} (hp : Passes (.writeN cm) s) :
    Leaves (copied (.writeN cm) s) (execWriteN cm s) := by
  refine .of_passes hp ?_
  simp only
  split
  · next hnone => exact .of_no_call (if_pos hnone) rfl
  · next hsome =>
    split
    · next hrel => exact .of_no_call (call_of_rel_none hsome hrel) rfl
    · next wrel hrel =>
      exact .of_call (call := .push cm s.opX wrel _ _) (call_of_rel_some hsome hrel) fun _ => rfl

theorem execRead_leaves (hp : Passes .read s) : Leaves (copied .read s) (execRead s) := by
  refine .of_passes hp ?_
  have hempty : (checkCorrect s).c = 0 ↔ itemsFrom s 0 1 = 0 := by
    rw [itemsFrom_eq]
    bv_omega
  simp only [checkCorrect_r, checkCorrect_rel, checkCorrect_store, checkCorrect_bus, hempty]
  split
  · next hnone => exact .of_no_call (if_pos hnone) (checkCorrect_bus s)
  · next hsome =>
    split
    · next hrel => exact .of_no_call (call_of_rel_none hsome hrel) rfl
    · next rrel hrel =>
      exact .of_call (call := .pull .inc s.opX rrel 1) (call_of_rel_some hsome hrel) fun _ => rfl

theorem execReadN_leaves {cm : CopyMode} (hp : Passes (.readN cm) s) :
    Leaves (copied (.readN cm) s) (execReadN cm s) := by
  refine .of_passes hp ?_
  have hitems : min s.opB.toNat (checkCorrect s).c.toNat = itemsFrom s 0 s.opB.toNat := by
    rw [itemsFrom_eq, Nat.sub_zero]
  simp only [checkCorrect_r, checkCorrect_rel, checkCorrect_store, checkCorrect_bus, hitems]
  split
  · next hnone => exact .of_no_call (if_pos hnone) (checkCorrect_bus s)
  · next hsome =>
    split
    · next hrel => exact .of_no_call (call_of_rel_none hsome hrel) rfl
    · next rrel hrel =>
      exact .of_call (call := .pull cm s.opX rrel _) (call_of_rel_some hsome hrel) fun _ => rfl

theorem execPeekAt_leaves (hp : Passes .peekAt s) : Leaves (copied .peekAt s) (execPeekAt s) := by
  refine .of_passes hp ?_
  have hempty : (checkCorrect s).c ≤ s.opA ↔ itemsFrom s s.opA.toNat 1 = 0 := by
    rw [itemsFrom_eq]
    bv_omega
  simp only [checkCorrect_r, checkCorrect_rel, checkCorrect_store, checkCorrect_bus, hempty]
  split
  · next hnone => exact .of_no_call (if_pos hnone) (checkCorrect_bus s)
  · next hsome =>
    split
    · next hrel => exact .of_no_call (call_of_rel_none hsome hrel) rfl
    · next rrel hrel =>
      exact .of_call (call := .pull .inc s.opX rrel 1) (call_of_rel_some hsome hrel) fun _ => rfl

theorem execPeekAtN_leaves {cm : CopyMode} (hp : Passes (.peekAtN cm) s) :
    Leaves (copied (.peekAtN cm) s) (execPeekAtN cm s) := by
  refine .of_passes hp ?_
  have hempty : ((checkCorrect s).c ≤ s.opA ∨ itemsFrom s s.opA.toNat s.opB.toNat = 0) ↔
      itemsFrom s s.opA.toNat s.opB.toNat = 0 := by
    rw [itemsFrom_eq]
    bv_omega
  simp only [checkCorrect_r, checkCorrect_rel, checkCorrect_store, checkCorrect_bus, ← itemsFrom_eq, hempty]
  split
  · next hnone => exact .of_no_call (if_pos hnone) (checkCorrect_bus s)
  · next hsome =>
    split
    · next hrel => exact .of_no_call (call_of_rel_none hsome hrel) rfl
    · next rrel hrel =>
      exact .of_call (call := .pull cm s.opX rrel _) (call_of_rel_some hsome hrel) fun _ => rfl

/-! ## The commands that call none -/

theorem execConfigure_leaves {ow : Bool} (hp : Passes (.configure ow) s) :
    Leaves (some s.bus) (execConfigure ow s) := by
  refine .of_passes hp ?_
  split <;> exact .next rfl

theorem execGetLinearReadInfo_leaves (hp : Passes .getLinearReadInfo s) :
    Leaves (some s.bus) (execGetLinearReadInfo s) := by
  refine .of_passes hp ?_
  simp only
  split
  · exact .next (checkCorrect_bus s)
  · split
    · exact .next rfl
    · exact .next (checkCorrect_bus s)

theorem execGetLinearWriteInfo_leaves (hp : Passes .getLinearWriteInfo s) :
    Leaves (some s.bus) (execGetLinearWriteInfo s) := by
  refine .of_passes hp ?_
  split
  · exact .next rfl
  · split
    · exact .next rfl
    · split <;> exact .next rfl

end

/-- A command that passes the prologue leaves behind the memory port what its copy leaves there, or is stuck with it. -/
theorem exec_leaves {i : Instr} {s : State} (hp : Passes i s) : Leaves (copied i s) (exec i s) := by
  cases i with
  | configure => exact execConfigure_leaves hp
  | write => exact execWrite_leaves hp
  | writeN => exact execWriteN_leaves hp
  | read => exact execRead_leaves hp
  | readN => exact execReadN_leaves hp
  | peekAt => exact execPeekAt_leaves hp
  | peekAtN => exact execPeekAtN_leaves hp
  | getLinearReadInfo => exact execGetLinearReadInfo_leaves hp
  | getLinearWriteInfo => exact execGetLinearWriteInfo_leaves hp
  | _ =>
    unfold exec
    exact .of_passes hp (.of_no_call rfl rfl)

theorem exec_eq_prologue (i : Instr) (s : State) : ∃ body, exec i s = prologue i s body := by
  unfold exec
  cases i <;> exact ⟨_, rfl⟩

/-- A command that does not pass the prologue makes no access. -/
theorem exec_of_not_passes {i : Instr} {s : State} (hp : ¬ Passes i s) :
    exec i s = .fault .noSuchPort ∨ ∃ t, exec i s = .next t ∧ t.bus = s.bus := by
  obtain ⟨body, e⟩ := exec_eq_prologue i s
  rcases prologue_cases i s body with ⟨-, h⟩ | ⟨-, -, c, -, h⟩ | ⟨h, -⟩
  · exact .inl (e.trans h)
  · exact .inr ⟨_, e.trans h, rfl⟩
  · exact absurd h hp

theorem bus_of_next_of_not_passes {i : Instr} {s t : State} (h : exec i s = .next t) (hp : ¬ Passes i s) :
    t.bus = s.bus := by
  rcases exec_of_not_passes hp with e | ⟨t', e, hbus⟩ <;> rw [h] at e <;> cases e
  exact hbus

theorem copied_of_next {i : Instr} {s t : State} (h : exec i s = .next t) (hp : Passes i s) :
    copied i s = some t.bus := by
  have hl := exec_leaves hp
  rw [h] at hl
  generalize copied i s = r at hl ⊢
  cases hl with
  | next hbus => rw [hbus]

/-! ## Admission -/

theorem exec_eq_notAdmitted_iff (i : Instr) (s : State) : exec i s = .fault .notAdmitted ↔ Passes i s ∧ ¬ Admitted i s := by
  by_cases hp : Passes i s
  · rw [← copied_isSome_iff, and_iff_right hp]
    have hl := exec_leaves hp
    generalize copied i s = r, exec i s = o at hl ⊢
    cases hl <;> simp
  · rcases exec_of_not_passes hp with e | ⟨t, e, -⟩ <;> simp [e, hp]

theorem decode_encode (i : Instr) : decode (encode i) = .instr i := by
  cases i with
  | configure ow => cases ow <;> decide
  | setOverwritable ow => cases ow <;> decide
  | writeN cm => cases cm <;> decide
  | readN cm => cases cm <;> decide
  | peekAtN cm => cases cm <;> decide
  | _ => decide

/-- Settles O6: a passed command is stuck exactly with its copy, and the copy exactly on an access that is not admitted; the
engine then passes the command over. -/
theorem stuckExactlyWhenNotAdmitted : Obligations.StuckExactlyWhenNotAdmitted := by
  refine ⟨exec_eq_notAdmitted_iff, fun s p rest port i ha hport hw hp hn => ⟨?_, ?_⟩⟩
  · refine step_of_grant_stuck ha hport hw ?_
    rw [runWord_of_instr (decode_encode i), exec_eq_notAdmitted_iff]
    exact ⟨hp, hn⟩
  · simp [PortState.busy, hw]

/-! ## The record of accesses -/

/-- Settles O29: a completed command has recorded the accesses of its copy; a refused one, and one without a copy, leaves the
bus as it was; each word of a CONST-mode copy is one access of the fixed address. -/
theorem accessesAreExact : Obligations.AccessesAreExact := by
  refine ⟨fun i s t h => ⟨fun hp => (makes_copied i s).log_eq _ (copied_of_next h hp), bus_of_next_of_not_passes h,
    fun hnone => ?_⟩, fun g xa rel0 n skip => ?_, countP_write_pullConst⟩
  · by_cases hp : Passes i s
    · have hc := copied_of_next h hp
      rw [copied, hnone] at hc
      exact (Option.some.inj hc).symm
    · exact bus_of_next_of_not_passes h hp
  · rw [countP_read_pushConst, ← Nat.add_mul, streamWords]

/-! ## The memory frame -/

theorem storedAddrs_eq (i : Instr) (s : State) : storedAddrs i s = storesOf s.params (commandShapes i s) := rfl

/-- Settles O30: a byte that no access of the command's copy stores to stays, by the frame of the accesses. -/
theorem memoryFrameOfEveryCommand : Obligations.MemoryFrameOfEveryCommand := by
  intro i s t a h hstored hraced
  by_cases hp : Passes i s
  · exact ((makes_copied i s).frame _ (copied_of_next h hp) a hraced (storedAddrs_eq i s ▸ hstored hp)).1
  · rw [bus_of_next_of_not_passes h hp]

end Sys2Proof.Machine
end

section
/-! Facts of the memory family (20_memory.md), second part: the value of each access while no other master writes, and which
byte of memory a store changes. -/

namespace Sys2Proof.Machine

open Sys2Proof

/-! ## Kinds of memory -/

section
variable {P : Params} {a : Nat}

theorem isDevice_iff : isDevice P a = true ↔ kindIn P.map a = .device := by
  simp [isDevice]

theorem writable_of_storable (h : storable P a = true) : writable P a = true := by
  unfold storable at h
  unfold writable
  revert h
  cases kindIn P.map a <;> decide

theorem readable_of_isDevice (h : isDevice P a = true) : readable P a = true := by
  rw [readable, isDevice_iff.1 h]
  rfl

theorem writable_of_isDevice (h : isDevice P a = true) : writable P a = true := by
  rw [writable, isDevice_iff.1 h]
  rfl

theorem not_storable_of_isDevice (h : isDevice P a = true) : storable P a = false := by
  rw [storable, isDevice_iff.1 h]
  rfl

/-- What holds of every lane of an access, by the lane's number. -/
theorem forall_mem_laneAddrs {n : Nat} {p : Nat → Prop} :
    (∀ x ∈ laneAddrs P a n, p x) ↔ ∀ j < n, p ((a + j) % P.space) := by
  simp [laneAddrs]

end

theorem byteAt_of_mem_eq {b c : Bus} (h : c.mem = b.mem) (a : Nat) : c.byteAt a = b.byteAt a :=
  byteAt_of_read_eq (by rw [h])

theorem byteAt_of_read_some {b : Bus} {a : Nat} {v : Byte} (h : Memory.read b.mem a = some v) : b.byteAt a = v := by
  rw [Bus.byteAt, h, Option.getD_some]

/-! ## Injective addresses -/

theorem add_mod_inj {x n t u : Nat} (ht : t < n) (hu : u < n) (h : (x + t) % n = (x + u) % n) : t = u :=
  (Nat.ModEq.add_left_cancel' x h).eq_of_lt_of_lt ht hu

/-- Within one capacity, itself within the space, no address of the array comes twice (20_memory.md R53). -/
theorem ba_inj {g : Store} {rel0 t u : Nat} (hspace : g.cap ≤ g.params.space) (ht : t < g.cap) (hu : u < g.cap)
    (h : g.ba rel0 t = g.ba rel0 u) : t = u := by
  have hslot (v : Nat) : (rel0 * g.isize + v) % g.cap < g.params.space :=
    (Nat.mod_lt _ (Nat.zero_lt_of_lt ht)).trans_le hspace
  exact add_mod_inj ht hu (add_mod_inj (hslot t) (hslot u) h)

/-! ## Accesses while no other master writes -/

section
variable {P : Params} {a : Nat} {b : Bus} (hquiet : b.race = [])
include hquiet

/-- A read of ordinary memory answers the bytes there. -/
theorem readAccess_memory {n : Nat}
    (h : ∀ j < n, readable P ((a + j) % P.space) = true ∧ isDevice P ((a + j) % P.space) = false) :
    ∃ c, b.readAccess P a n = some ((List.range n).map fun j => b.byteAt ((a + j) % P.space), c) ∧
      c.mem = b.mem ∧ c.race = [] ∧ c.rx = b.rx ∧ ∃ bytes, c.log = .rd (a % P.space) bytes :: b.log := by
  have hall : (laneAddrs P a n).all (readable P) = true :=
    List.all_eq_true.2 (forall_mem_laneAddrs.2 fun j hj => (h j hj).1)
  have hmem : (laneAddrs P a n).any (isDevice P) = false :=
    List.any_eq_false.2 (forall_mem_laneAddrs.2 fun j hj => by simp [(h j hj).2])
  obtain ⟨⟨bytes, c⟩, hr⟩ := Option.isSome_iff_exists.1 ((Bus.readAccess_isSome P a n b).trans hall)
  obtain ⟨-, -, hm, hrace, hlog, ⟨-, hbytes, hrx, -⟩ | ⟨hdev, -⟩⟩ := Bus.readAccess_cases hr
  · rw [Bus.arrive_of_no_race P hquiet] at hm hbytes
    refine ⟨c, ?_, hm, by simpa [hquiet] using hrace, hrx, bytes, hlog⟩
    rw [hr, show bytes = _ from hbytes, laneAddrs, List.map_map]
    rfl
  · rw [hmem] at hdev
    cases hdev

/-- A read of a device takes the next answer listed for it (20_memory.md R61; log 4). -/
theorem readAccess_device {n : Nat} (hn : n ≠ 0) (ha : a < P.space) (h : ∀ j < n, isDevice P ((a + j) % P.space) = true)
    {w : Word} {rest : List (Nat × Word)} (hrx : b.rx = (a, w) :: rest) :
    ∃ c, b.readAccess P a n = some ((List.range n).map (lane w), c) ∧ c.mem = b.mem ∧ c.race = [] ∧ c.rx = rest := by
  have hall : (laneAddrs P a n).all (readable P) = true :=
    List.all_eq_true.2 (forall_mem_laneAddrs.2 fun j hj => readable_of_isDevice (h j hj))
  have hdev : (laneAddrs P a n).any (isDevice P) = true :=
    List.any_eq_true.2 ⟨_, List.mem_map.2 ⟨0, List.mem_range.2 (Nat.pos_of_ne_zero hn), rfl⟩, h 0 (Nat.pos_of_ne_zero hn)⟩
  have hanswer : b.deviceAnswer (a % P.space) = (w, { b with rx := rest }) := by
    simp [Bus.deviceAnswer, Bus.takeAnswer, hrx, Nat.mod_eq_of_lt ha]
  obtain ⟨⟨bytes, c⟩, hr⟩ := Option.isSome_iff_exists.1 ((Bus.readAccess_isSome P a n b).trans hall)
  obtain ⟨-, -, hm, hrace, -, ⟨hmem, -⟩ | ⟨-, hbytes, hrx', -⟩⟩ := Bus.readAccess_cases hr
  · rw [hdev] at hmem
    cases hmem
  · rw [Bus.arrive_of_no_race P hquiet] at hm hbytes hrx'
    rw [hanswer] at hbytes hrx'
    exact ⟨c, by rw [hr, show bytes = _ from hbytes], hm, by simpa [hquiet] using hrace, hrx'⟩

/-- A write access changes memory as `storeLanes` says. -/
theorem writeAccess_quiet {bytes : List Byte} (h : ∀ j < bytes.length, writable P ((a + j) % P.space) = true) :
    ∃ c, b.writeAccess P a bytes = some c ∧ c.mem = storeLanes P (laneAddrs P a bytes.length) bytes b.mem ∧
      c.race = [] ∧ c.rx = b.rx ∧ c.log = .wr (a % P.space) bytes :: b.log := by
  have hall : (laneAddrs P a bytes.length).all (writable P) = true := List.all_eq_true.2 (forall_mem_laneAddrs.2 h)
  obtain ⟨c, hw⟩ := Option.isSome_iff_exists.1 ((Bus.writeAccess_isSome P a bytes b).trans hall)
  obtain ⟨-, hm, hrace, hlog, hrx, -⟩ := Bus.writeAccess_cases hw
  rw [Bus.arrive_of_no_race P hquiet] at hm
  exact ⟨c, hw, hm, by simpa [hquiet] using hrace, hrx, hlog⟩

end

/-! ## The lanes of a store -/

section
variable {P : Params}

theorem storeLanes_of_not_storable {as : List Nat} {bs : List Byte} {m : List Host.Cell}
    (h : ∀ a ∈ as, storable P a = false) : storeLanes P as bs m = m := by
  induction as generalizing bs with
  | nil => rfl
  | cons a as ih =>
    cases bs with
    | nil => rfl
    | cons b bs =>
      obtain ⟨ha, has⟩ := List.forall_mem_cons.1 h
      rw [storeLanes, if_neg (by simp [ha]), ih has]

/-- Lane j stays where no later lane has its address (log 13). -/
theorem storeLanes_read_last {as : List Nat} {bs : List Byte} {m : List Host.Cell} {j a : Nat} {v : Byte}
    (ha : as[j]? = some a) (hv : bs[j]? = some v) (hs : storable P a = true) (hlast : ∀ k, j < k → as[k]? ≠ some a) :
    Memory.read (storeLanes P as bs m) a = some v := by
  induction as generalizing bs m j with
  | nil => simp at ha
  | cons x as ih =>
    cases bs with
    | nil => simp at hv
    | cons y bs =>
      rw [storeLanes]
      cases j with
      | zero =>
        obtain rfl : x = a := by simpa using ha
        obtain rfl : y = v := by simpa using hv
        have hout : x ∉ as := fun hx =>
          have ⟨k, hk⟩ := List.mem_iff_getElem?.1 hx
          hlast (k + 1) (Nat.succ_pos k) (by simpa using hk)
        rw [storeLanes_read_other as bs hout, if_pos hs, Memory.read_write_same]
      | succ j => exact ih (by simpa using ha) (by simpa using hv) fun k hk => by simpa using hlast (k + 1) (by omega)

end

end Sys2Proof.Machine
end

section
/-! Proofs of the memory family (20_memory.md), second part: what PUSH and PULL store, by an invariant of their loops. -/

namespace Sys2Proof.Machine

open Sys2Proof

/-! ## Bytes stored one after the other -/

/-- Of L byte stores that began at b, the first k are done in c: byte t stands at its destination for t < k, every byte that is
no destination is as before, and no other master writes. -/
structure Filled (dst : Nat → Nat) (L : Nat) (val : Nat → Byte) (b : Bus) (k : Nat) (c : Bus) : Prop where
  quiet : c.race = []
  stored : ∀ t < L, t < k → c.byteAt (dst t) = val t
  frame : ∀ a, (∀ t < L, a ≠ dst t) → c.byteAt a = b.byteAt a

section
variable {dst : Nat → Nat} {L : Nat} {val : Nat → Byte} {b c : Bus} {k : Nat}

theorem Filled.start (h : b.race = []) : Filled dst L val b 0 b :=
  ⟨h, fun _ _ ht => absurd ht (Nat.not_lt_zero _), fun _ _ => rfl⟩

/-- A read leaves it as it is. -/
theorem Filled.of_mem_eq {d : Bus} (h : Filled dst L val b k c) (hm : d.mem = c.mem) (hr : d.race = []) :
    Filled dst L val b k d :=
  ⟨hr, fun t ht htk => (byteAt_of_mem_eq hm _).trans (h.stored t ht htk),
    fun a ha => (byteAt_of_mem_eq hm a).trans (h.frame a ha)⟩

/-- After the last store the count does not matter. -/
theorem Filled.of_complete (h : Filled dst L val b k c) (hk : L ≤ k) (k' : Nat) : Filled dst L val b k' c :=
  ⟨h.quiet, fun t ht _ => h.stored t ht (ht.trans_le hk), h.frame⟩

/-- The next store. -/
theorem Filled.store {P : Params} {a : Nat} {v : Byte} (h : Filled dst L val b k c) (hk : k < L)
    (hinj : ∀ t < L, ∀ u < L, dst t = dst u → t = u) (ha : a % P.space = dst k) (hs : storable P (dst k) = true)
    (hv : v = val k) :
    ∃ d, c.writeAccess P a [v] = some d ∧ Filled dst L val b (k + 1) d ∧ d.rx = c.rx := by
  subst hv
  obtain ⟨d, hw, hm, hrace, hrx, -⟩ := writeAccess_quiet (P := P) (a := a) (bytes := [val k]) h.quiet
    fun j hj => by
      obtain rfl : j = 0 := by simpa using hj
      rw [Nat.add_zero, ha]
      exact writable_of_storable hs
  have hmem : d.mem = Memory.write c.mem (dst k) (val k) := by simpa [laneAddrs, storeLanes, ha, hs] using hm
  have hother {x : Nat} (hx : x ≠ dst k) : d.byteAt x = c.byteAt x :=
    byteAt_of_read_eq (by rw [hmem, Memory.read_write_other _ _ hx])
  refine ⟨d, hw, ⟨hrace, fun t ht htk => ?_, fun x hx => (hother (hx k hk)).trans (h.frame x hx)⟩, hrx⟩
  by_cases e : t = k
  · subst e
    exact byteAt_of_read_some (by rw [hmem, Memory.read_write_same])
  · rw [hother fun he => e (hinj t ht k hk he)]
    exact h.stored t ht (by omega)

end

/-! ## The INC copies -/

/-- The loop of both INC copies (20_memory.md R55, R57): without overlap each byte read is the one that stood there before. -/
theorem copyBytes_filled {P : Params} {src dst : Nat → Nat} {L : Nat} {b : Bus} (hquiet : b.race = [])
    (hsrc : ∀ t < L, readable P (src t % P.space) = true ∧ isDevice P (src t % P.space) = false)
    (hdst : ∀ t < L, storable P (dst t % P.space) = true)
    (hinj : ∀ t < L, ∀ u < L, dst t % P.space = dst u % P.space → t = u)
    (hne : ∀ t < L, ∀ u < L, src t % P.space ≠ dst u % P.space) :
    ∃ c, upTo (fun t b => (b.readAccess P (src t) 1).bind fun r => r.2.writeAccess P (dst t) r.1) L b = some c ∧
      Filled (fun t => dst t % P.space) L (fun t => b.byteAt (src t % P.space)) b L c ∧ c.rx = b.rx := by
  refine upTo_isSome (fun k c =>
    Filled (fun t => dst t % P.space) L (fun t => b.byteAt (src t % P.space)) b k c ∧ c.rx = b.rx)
    (fun k c hk ⟨hc, hcrx⟩ => ?_) ⟨.start hquiet, rfl⟩
  obtain ⟨d, hread, hm, hrace, hrx, -⟩ := readAccess_memory (P := P) (a := src k) (n := 1) hc.quiet fun j hj => by
    obtain rfl : j = 0 := by omega
    exact hsrc k hk
  obtain ⟨d', hwrite, hd', hrx'⟩ := (hc.of_mem_eq hm hrace).store (v := c.byteAt (src k % P.space)) hk hinj rfl (hdst k hk)
    (hc.frame _ (hne k hk))
  refine ⟨d', ?_, hd', hrx'.trans (hrx.trans hcrx)⟩
  rw [hread]
  exact hwrite

/-- Settles O25: PUSH in INC mode is the byte loop into the array, whose addresses do not repeat within the capacity. -/
theorem pushIncStoresTheBytes : Obligations.PushIncStoresTheBytes := by
  intro g xa rel0 n skip b L src hquiet hcap hspace hsrc hdst hne
  have hloop := copyBytes_filled (P := g.params) (src := fun t => xa + skip * g.isize + t) (dst := g.ba rel0) (L := L) hquiet
  simp only [ba_mod_space] at hloop
  obtain ⟨c, hc, hfilled, hrx⟩ := hloop hsrc hdst
    (fun t ht u hu => ba_inj hspace (ht.trans_le hcap) (hu.trans_le hcap)) hne
  exact ⟨c, hc, fun t ht => hfilled.stored t ht ht, hfilled.frame, hrx⟩

/-- Settles O27: PULL in INC mode is the byte loop out of the array, to addresses that do not repeat within the space. -/
theorem pullIncDeliversTheBytes : Obligations.PullIncDeliversTheBytes := by
  intro g xa rel0 n b L dst hquiet hcap hspace hsrc hdst hne
  have hloop := copyBytes_filled (P := g.params) (src := g.ba rel0) (dst := fun t => xa + t) (L := L) hquiet
  simp only [ba_mod_space] at hloop
  obtain ⟨c, hc, hfilled, -⟩ := hloop hsrc hdst
    (fun t ht u hu => add_mod_inj (ht.trans_le hspace) (hu.trans_le hspace)) hne
  exact ⟨c, hc, fun t ht => hfilled.stored t ht ht, hfilled.frame⟩

/-! ## PUSH in CONST mode -/

/-- Byte s of the stream whose words are given: lane s mod 4 of word s / 4 (20_memory.md R56). -/
def streamByte (word : Nat → List Byte) (s : Nat) : Byte := (word (s / 4)).getD (s % 4) 0

theorem streamByte_of_lanes {word : Nat → List Byte} {s : Nat} {f : Nat → Byte}
    (h : word (s / 4) = (List.range 4).map f) : streamByte word s = f (s % 4) := by
  simp [streamByte, h, Nat.mod_lt]

section
variable {g : Store} {rel0 L S : Nat} {word : Nat → List Byte} {b : Bus}
  (hinj : ∀ t < L, ∀ u < L, g.ba rel0 t = g.ba rel0 u → t = u) (hst : ∀ t < L, storable g.params (g.ba rel0 t) = true)
include hinj hst

/-- The stores of one word: the stream is kept from byte S on, so `4i + j - S` bytes are stored before lane j of word i. -/
theorem pushLanes_filled {i : Nat} {c : Bus} (h : Filled (g.ba rel0) L (fun t => streamByte word (S + t)) b (4 * i - S) c) :
    ∃ d, pushLanes g rel0 S (S + L) i (word i) c = some d ∧
      Filled (g.ba rel0) L (fun t => streamByte word (S + t)) b (4 * (i + 1) - S) d ∧ d.rx = c.rx := by
  refine upTo_isSome (fun j d =>
    Filled (g.ba rel0) L (fun t => streamByte word (S + t)) b (4 * i + j - S) d ∧ d.rx = c.rx)
    (fun j d (hj : j < 4) ⟨hd, hrx⟩ => ?_) ⟨h, rfl⟩
  by_cases hkept : S ≤ 4 * i + j ∧ 4 * i + j < S + L
  · have ⟨hS, hT⟩ := hkept
    have hlane : (word i).getD j 0 = streamByte word (S + (4 * i + j - S)) := by
      rw [Nat.add_sub_cancel' hS, streamByte, show (4 * i + j) / 4 = i by omega, show (4 * i + j) % 4 = j by omega]
    obtain ⟨e, hw, he, herx⟩ := hd.store (by omega) hinj (ba_mod_space _ _ _) (hst _ (by omega)) hlane
    exact ⟨e, (if_pos hkept).trans hw, by rwa [show 4 * i + (j + 1) - S = 4 * i + j - S + 1 by omega], herx.trans hrx⟩
  · refine ⟨d, if_neg hkept, ?_, hrx⟩
    by_cases hS : S ≤ 4 * i + j
    · exact hd.of_complete (by omega) _
    · rwa [show 4 * i + (j + 1) - S = 4 * i + j - S by omega]

/-- PUSH in CONST mode stores the stream of the words it reads, after its first S bytes; `rx i` are the devices' answers before
word i is read. -/
theorem pushConst_filled {xa : Nat} {rx : Nat → List (Nat × Word)} (hquiet : b.race = []) (hrx : b.rx = rx 0)
    (hread : ∀ i < (S + L + 3) / 4, ∀ c : Bus, c.race = [] →
      (∀ a, (∀ t < L, a ≠ g.ba rel0 t) → c.byteAt a = b.byteAt a) → c.rx = rx i →
      ∃ d, c.readAccess g.params xa 4 = some (word i, d) ∧ d.mem = c.mem ∧ d.race = [] ∧ d.rx = rx (i + 1)) :
    ∃ c, pushConst g xa rel0 L S b = some c ∧
      Filled (g.ba rel0) L (fun t => streamByte word (S + t)) b (4 * ((S + L + 3) / 4) - S) c ∧
      c.rx = rx ((S + L + 3) / 4) := by
  refine upTo_isSome (fun i c =>
    Filled (g.ba rel0) L (fun t => streamByte word (S + t)) b (4 * i - S) c ∧ c.rx = rx i)
    (fun i c hi ⟨hc, hcrx⟩ => ?_) ⟨by simpa using Filled.start hquiet, hrx⟩
  obtain ⟨d, hr, hm, hrace, hdrx⟩ := hread i hi c hc.quiet hc.frame hcrx
  obtain ⟨e, he, hfilled, herx⟩ := pushLanes_filled hinj hst (hc.of_mem_eq hm hrace)
  exact ⟨e, by rw [Config.constWord, hr]; exact he, hfilled, herx.trans hdrx⟩

end

/-- Settles O26: word i of the stream is the device's i-th listed answer, or the four bytes at the fixed address, which no store
changes. -/
theorem pushConstStoresTheStream : Obligations.PushConstStoresTheStream := by
  intro g xa rel0 n skip b L S src hquiet hcap hspace hst
  have hinj : ∀ t < L, ∀ u < L, g.ba rel0 t = g.ba rel0 u → t = u :=
    fun t ht u hu => ba_inj hspace (ht.trans_le hcap) (hu.trans_le hcap)
  refine ⟨fun words rest hxa hdev hlen hrx => ?_, fun hmem hne => ?_⟩
  · obtain ⟨c, hc, hfilled, hcrx⟩ := pushConst_filled (S := S)
      (word := fun i => (List.range 4).map (lane (words.getD i 0)))
      (rx := fun i => (words.drop i).map (fun w => (xa, w)) ++ rest) hinj hst hquiet hrx
      fun i hi c hrace _ hcrx => by
        have hi : i < words.length := hlen ▸ hi
        rw [List.drop_eq_getElem_cons hi, List.map_cons, List.cons_append] at hcrx
        rw [List.getD_eq_getElem _ _ hi]
        exact readAccess_device hrace (by decide) hxa hdev hcrx
    refine ⟨c, hc, by simpa [← hlen] using hcrx, fun t ht => ?_, hfilled.frame⟩
    rw [hfilled.stored t ht (by omega), streamByte_of_lanes rfl, lane_toNat]
  · obtain ⟨c, hc, hfilled, hcrx⟩ := pushConst_filled (S := S)
      (word := fun _ => (List.range 4).map fun j => b.byteAt (src j)) (rx := fun _ => b.rx) hinj hst hquiet rfl
      fun i _ c hrace hframe hcrx => by
        obtain ⟨d, hr, hm, hdrace, hdrx, -⟩ := readAccess_memory hrace hmem
        refine ⟨d, ?_, hm, hdrace, hdrx.trans hcrx⟩
        rw [hr, List.map_congr_left fun j hj => hframe _ (hne j (List.mem_range.1 hj))]
    refine ⟨c, hc, hcrx, fun t ht => ?_, hfilled.frame⟩
    rw [hfilled.stored t ht (by omega), streamByte_of_lanes rfl]

/-! ## PULL in CONST mode -/

/-- The write accesses a bus has recorded. -/
def writesOf (b : Bus) : List Access := b.log.filter fun x => x.shape.write

/-- Byte k of the stream that PULL writes in CONST mode (20_memory.md R58). -/
def pulledByte (g : Store) (rel0 L : Nat) (b : Bus) (k : Nat) : Byte := if k < L then b.byteAt (g.ba rel0 k) else 0x00

/-- Word i of that stream. -/
def pulledWord (g : Store) (rel0 L : Nat) (b : Bus) (i : Nat) : List Byte :=
  (List.range 4).map fun j => pulledByte g rel0 L b (4 * i + j)

/-- A CONST-mode PULL that began at b has written i words of the stream to xa, and `M i` holds of memory. -/
structure WroteWords (g : Store) (xa rel0 L : Nat) (b : Bus) (M : Nat → List Host.Cell → Prop) (i : Nat) (c : Bus) :
    Prop where
  quiet : c.race = []
  writes : writesOf c =
    ((List.range i).map fun i => Access.wr (xa % g.params.space) (pulledWord g rel0 L b i)).reverse ++ writesOf b
  memory : M i c.mem

section
variable {g : Store} {rel0 L : Nat} {b : Bus}
  (hsrc : ∀ t < L, readable g.params (g.ba rel0 t) = true ∧ isDevice g.params (g.ba rel0 t) = false)
include hsrc

/-- The gathered lanes are the stream's bytes, and gathering them is reads only. -/
theorem pullLanes_pulledByte (i k : Nat) (hquiet : b.race = []) :
    ∃ d, pullLanes g rel0 L i k b = some ((List.range k).map fun j => pulledByte g rel0 L b (4 * i + j), d) ∧
      d.mem = b.mem ∧ d.race = [] ∧ writesOf d = writesOf b := by
  induction k with
  | zero => exact ⟨b, rfl, rfl, hquiet, rfl⟩
  | succ k ih =>
    obtain ⟨d, hd, hm, hrace, hlog⟩ := ih
    simp only [pullLanes, Config.constWord, hd, Option.bind_some, List.range_succ, List.map_append, List.map_singleton]
    by_cases hk : 4 * i + k < L
    · obtain ⟨e, hr, hem, herace, -, bytes, helog⟩ := readAccess_memory (P := g.params) (a := g.ba rel0 (4 * i + k)) (n := 1)
        hrace fun j hj => by
          obtain rfl : j = 0 := by omega
          simpa using hsrc _ hk
      refine ⟨e, ?_, hem.trans hm, herace, ?_⟩
      · simp [hr, pulledByte, hk, byteAt_of_mem_eq hm]
      · rw [← hlog, writesOf, helog]
        rfl
    · exact ⟨d, by simp [pulledByte, hk], hm, hrace, hlog⟩

/-- The next word: its lanes are gathered, and it is written. -/
theorem WroteWords.next {xa : Nat} {M : Nat → List Host.Cell → Prop} {i : Nat} {c : Bus}
    (hw : ∀ j < 4, writable g.params ((xa + j) % g.params.space) = true)
    (hstep : ∀ m, M i m → M (i + 1) (storeLanes g.params (laneAddrs g.params xa 4) (pulledWord g rel0 L b i) m))
    (hrun : M i c.mem → ∀ t < L, c.byteAt (g.ba rel0 t) = b.byteAt (g.ba rel0 t)) (h : WroteWords g xa rel0 L b M i c) :
    ∃ e, ((pullLanes g rel0 L i Config.constWord c).bind fun r => r.2.writeAccess g.params xa r.1) = some e ∧
      WroteWords g xa rel0 L b M (i + 1) e := by
  obtain ⟨d, hd, hdm, hdrace, hdlog⟩ := pullLanes_pulledByte (b := c) hsrc i 4 h.quiet
  have hword : ((List.range 4).map fun j => pulledByte g rel0 L c (4 * i + j)) = pulledWord g rel0 L b i := by
    refine List.map_congr_left fun j _ => ?_
    unfold pulledByte
    split
    · next hk => exact hrun h.memory _ hk
    · rfl
  rw [hword] at hd
  have hlen : (pulledWord g rel0 L b i).length = 4 := by simp [pulledWord]
  obtain ⟨e, he, hem, herace, -, helog⟩ := writeAccess_quiet (P := g.params) (a := xa) (bytes := pulledWord g rel0 L b i)
    hdrace (by rwa [hlen])
  rw [hlen, hdm] at hem
  refine ⟨e, by rw [Config.constWord, hd]; exact he, herace, ?_, hem ▸ hstep c.mem h.memory⟩
  rw [List.range_succ, List.map_append, List.reverse_append, List.append_assoc, ← h.writes, ← hdlog, writesOf, helog]
  rfl

/-- PULL in CONST mode writes the words of the stream, whatever `M` says of memory before word i, if the store of that word turns
`M i` into `M (i + 1)` and the run's bytes are under it as they were. -/
theorem pullConst_wroteWords {xa : Nat} (M : Nat → List Host.Cell → Prop) (hquiet : b.race = [])
    (hw : ∀ j < 4, writable g.params ((xa + j) % g.params.space) = true) (h0 : M 0 b.mem)
    (hstep : ∀ i m, M i m → M (i + 1) (storeLanes g.params (laneAddrs g.params xa 4) (pulledWord g rel0 L b i) m))
    (hrun : ∀ i (c : Bus), M i c.mem → ∀ t < L, c.byteAt (g.ba rel0 t) = b.byteAt (g.ba rel0 t)) :
    ∃ c, pullConst g xa rel0 L b = some c ∧ WroteWords g xa rel0 L b M ((L + 3) / 4) c :=
  upTo_isSome (WroteWords g xa rel0 L b M) (fun i c _ h => h.next hsrc hw (hstep i) (hrun i c)) ⟨hquiet, rfl, h0⟩

end

/-- Memory after i words of a CONST-mode PULL to ordinary memory at xa: the lanes of the last one, every other byte as in b. -/
structure LastWordAt (g : Store) (xa rel0 L : Nat) (b : Bus) (i : Nat) (m : List Host.Cell) : Prop where
  untouched : i = 0 → m = b.mem
  lanes : i ≠ 0 → ∀ j < 4, (∀ k < 4, j < k → (xa + k) % g.params.space ≠ (xa + j) % g.params.space) →
    Memory.read m ((xa + j) % g.params.space) = some (pulledByte g rel0 L b (4 * (i - 1) + j))
  frame : ∀ a, (∀ j < 4, a ≠ (xa + j) % g.params.space) → Memory.read m a = Memory.read b.mem a

theorem LastWordAt.start (g : Store) (xa rel0 L : Nat) (b : Bus) : LastWordAt g xa rel0 L b 0 b.mem :=
  ⟨fun _ => rfl, fun h => absurd rfl h, fun _ _ => rfl⟩

theorem LastWordAt.store {g : Store} {xa rel0 L : Nat} {b : Bus} {i : Nat} {m : List Host.Cell}
    (hs : ∀ j < 4, storable g.params ((xa + j) % g.params.space) = true) (h : LastWordAt g xa rel0 L b i m) :
    LastWordAt g xa rel0 L b (i + 1) (storeLanes g.params (laneAddrs g.params xa 4) (pulledWord g rel0 L b i) m) where
  untouched h := absurd h (Nat.succ_ne_zero i)
  lanes _ j hj hlast := by
    refine storeLanes_read_last (j := j) (by simp [laneAddrs, hj]) (by simp [pulledWord, hj]) (hs j hj) fun k hk e => ?_
    obtain ⟨k', hk', e'⟩ :
        ∃ k', (List.range 4)[k]? = some k' ∧ (xa + k') % g.params.space = (xa + j) % g.params.space := by
      simpa [laneAddrs] using e
    obtain ⟨hlt, rfl⟩ := List.getElem?_eq_some_iff.1 hk'
    rw [List.length_range] at hlt
    rw [List.getElem_range] at e'
    exact hlast k hlt hk e'
  frame a ha := by
    rw [storeLanes_read_other _ _ fun hmem => ?_, h.frame a ha]
    obtain ⟨j, hj, e⟩ := List.mem_map.1 hmem
    exact ha j (List.mem_range.1 hj) e.symm

/-- Settles O28: a word written to a device changes no memory; one written to ordinary memory leaves its lanes there, which are
not the run's bytes. -/
theorem pullConstWritesTheWords : Obligations.PullConstWritesTheWords := by
  intro g xa rel0 n b L dst stream writesTheWords hquiet _ hsrc
  refine ⟨fun hdev => ?_, fun hst hne => ?_⟩
  · obtain ⟨c, hc, -, hwrites, hm⟩ := pullConst_wroteWords hsrc (xa := xa) (fun _ m => m = b.mem) hquiet
      (fun j hj => writable_of_isDevice (hdev j hj)) rfl
      (fun i m hm => (storeLanes_of_not_storable (forall_mem_laneAddrs.2 fun j hj =>
        not_storable_of_isDevice (hdev j hj))).trans hm)
      fun i c hm t _ => byteAt_of_mem_eq hm _
    exact ⟨c, hc, hm, hwrites⟩
  · obtain ⟨c, hc, -, hwrites, hm⟩ := pullConst_wroteWords hsrc (xa := xa) (LastWordAt g xa rel0 L b) hquiet
      (fun j hj => writable_of_storable (hst j hj)) (.start g xa rel0 L b) (fun _ _ => LastWordAt.store hst)
      fun i c hm t ht => byteAt_of_read_eq (hm.frame _ fun j hj => (hne j hj t ht).symm)
    refine ⟨c, hc, hwrites, fun hL => hm.untouched (by omega), fun hL j hj hlast => ?_,
      fun a ha => byteAt_of_read_eq (hm.frame a ha)⟩
    exact byteAt_of_read_some (hm.lanes (by omega) j hj hlast)

end Sys2Proof.Machine
end

section
/-! Proofs of the encoding family (30_encoding.md), first part: what the decoder reads from the fields of a word, and that the
encoder is its inverse. -/

namespace Sys2Proof.Machine

open Sys2Proof

/-! ## The fields of a word (R81) -/

section
variable (w : Word)

@[simp] theorem fieldsOf_opc : (fieldsOf w).opc = w.toNat % 32 := by
  simp [fieldsOf, bitField]

@[simp] theorem fieldsOf_res1 : (fieldsOf w).res1 = w.toNat / 32 % 8 := by
  simp [fieldsOf, bitField]

@[simp] theorem fieldsOf_res2 : (fieldsOf w).res2 = w.toNat / 1024 := by
  have hw := w.isLt
  simp only [fieldsOf, bitField]
  omega

theorem fieldsOf_cm : (fieldsOf w).cm.toNat = w.toNat / 256 % 2 := by
  simp only [fieldsOf, bitField]
  rcases Nat.mod_two_eq_zero_or_one (w.toNat / 256) with h | h <;> simp [h]

theorem fieldsOf_ow : (fieldsOf w).ow.toNat = w.toNat / 512 % 2 := by
  simp only [fieldsOf, bitField]
  rcases Nat.mod_two_eq_zero_or_one (w.toNat / 512) with h | h <;> simp [h]

/-- The fields cover the word. -/
theorem toNat_eq_fieldsOf : w.toNat = (fieldsOf w).opc + 32 * (fieldsOf w).res1 + 256 * (fieldsOf w).cm.toNat +
    512 * (fieldsOf w).ow.toNat + 1024 * (fieldsOf w).res2 := by
  rw [fieldsOf_opc, fieldsOf_res1, fieldsOf_cm, fieldsOf_ow, fieldsOf_res2]
  omega

end

theorem cmBit_copyModeOf (cm : Bool) : cmBit (copyModeOf cm) = cm.toNat := by cases cm <;> rfl

/-! ## The three kinds of operation (R83) -/

section
variable {f : Fields} {j : Instr}

theorem plainOp_eq_instr {i : Instr} : plainOp f i = .instr j ↔ f.cm = false ∧ f.ow = false ∧ i = j := by
  unfold plainOp
  cases f.cm <;> cases f.ow <;> simp

theorem copyOp_eq_instr {i : CopyMode → Instr} :
    copyOp f i = .instr j ↔ f.ow = false ∧ i (copyModeOf f.cm) = j := by
  unfold copyOp
  cases f.ow <;> simp

theorem owOp_eq_instr {i : Bool → Instr} : owOp f i = .instr j ↔ f.cm = false ∧ i f.ow = j := by
  unfold owOp
  cases f.cm <;> simp

end

/-! ## The opcode map (R84) -/

/-- The fields are those the encoder gives the command. -/
def Spells (f : Fields) (i : Instr) : Prop :=
  f.opc = i.opc ∧ copyModeOf f.cm = i.copyMode ∧ f.ow = i.owBit

/-- The opcode map reads a command only from fields that spell it: each row fixes OPC, and its kind fixes CM and OW or hands them
to the command. -/
theorem spells_of_decodeOpc {f : Fields} {i : Instr} (h : decodeOpc f = .instr i) : Spells f i := by
  unfold decodeOpc at h
  split at h <;> simp only [plainOp_eq_instr, copyOp_eq_instr, owOp_eq_instr, reduceCtorEq] at h
  all_goals grind [Spells, Instr.opc, Instr.copyMode, Instr.owBit, copyModeOf]

/-- A word decodes to what the opcode map reads from its fields, with the reserved bits 0 (R83 (a)). -/
theorem decode_eq_instr {w : Word} {i : Instr} :
    decode w = .instr i ↔ (fieldsOf w).res1 = 0 ∧ (fieldsOf w).res2 = 0 ∧ decodeOpc (fieldsOf w) = .instr i := by
  unfold decode
  generalize fieldsOf w = f
  simp only [Bool.or_eq_true, bne_iff_ne]
  split
  · next hset => exact ⟨nofun, fun ⟨h1, h2, _⟩ => absurd hset (by simp [h1, h2])⟩
  · next hclear => simp_all

theorem eq_encode_of_decode {w : Word} {i : Instr} (h : decode w = .instr i) : w = encode i := by
  obtain ⟨h1, h2, hmap⟩ := decode_eq_instr.1 h
  obtain ⟨hopc, hcm, how⟩ := spells_of_decodeOpc hmap
  have hw : w.toNat = i.opc + 2 ^ 8 * cmBit i.copyMode + 2 ^ 9 * i.owBit.toNat := by
    have hfields := toNat_eq_fieldsOf w
    rw [h1, h2, hopc, ← cmBit_copyModeOf, hcm, how] at hfields
    omega
  rw [encode, ← hw, BitVec.ofNat_toNat, BitVec.setWidth_eq]

/-- Settles O2: the encoder's words decode command by command, and a decoded word has the fields the encoder gives. -/
theorem decodeEncodeAgree : Obligations.DecodeEncodeAgree :=
  ⟨decode_encode, fun _ _ => eq_encode_of_decode⟩

end Sys2Proof.Machine
end

section
/-! Proofs of the encoding family (30_encoding.md), second part: the list of legal words, the rows of the opcode table, and the
conditions of legality. -/

namespace Sys2Proof.Machine

open Sys2Proof

/-! ## The legal words (R85) -/

/-- Every command, in the order of the words R85 lists. -/
def allInstrs : List Instr :=
  [.configure false, .configure true, .clear, .setOverwritable false, .setOverwritable true, .write, .writeN .inc,
   .writeN .const, .read, .readN .inc, .readN .const, .peekAt, .peekAtN .inc, .peekAtN .const, .getLinearReadInfo,
   .getLinearWriteInfo, .correctReadPointer, .count, .empty, .full, .remaining, .overflowed, .advanceWritePointer,
   .advanceReadPointer, .backwardWritePointer, .backwardReadPointer]

theorem mem_allInstrs (i : Instr) : i ∈ allInstrs := by
  cases i with
  | configure ow => cases ow <;> decide
  | setOverwritable ow => cases ow <;> decide
  | writeN cm => cases cm <;> decide
  | readN cm => cases cm <;> decide
  | peekAtN cm => cases cm <;> decide
  | _ => decide

theorem legalWords_eq_map_encode : legalWords = allInstrs.map encode := by decide

theorem mem_legalWords_iff {w : Word} : w ∈ legalWords ↔ ∃ i, encode i = w := by
  simp [legalWords_eq_map_encode, mem_allInstrs]

theorem decode_eq_instr_iff_encode {w : Word} {i : Instr} : decode w = .instr i ↔ encode i = w :=
  ⟨fun h => (eq_encode_of_decode h).symm, fun h => h ▸ decode_encode i⟩

/-! ## The rows of the opcode table (R85) -/

theorem encode_and_rowMask (i : Instr) : encode i &&& i.rowMask = BitVec.ofNat 32 i.opc := by
  cases i with
  | configure ow => exact Laws.OneRow.configure ow
  | clear => exact Laws.OneRow.clear
  | setOverwritable ow => exact Laws.OneRow.setOverwritable ow
  | write => exact Laws.OneRow.write
  | writeN cm => exact Laws.OneRow.writeN cm
  | read => exact Laws.OneRow.read
  | readN cm => exact Laws.OneRow.readN cm
  | peekAt => exact Laws.OneRow.peekAt
  | peekAtN cm => exact Laws.OneRow.peekAtN cm
  | getLinearReadInfo => exact Laws.OneRow.getLinearReadInfo
  | getLinearWriteInfo => exact Laws.OneRow.getLinearWriteInfo
  | correctReadPointer => exact Laws.OneRow.correctReadPointer
  | count => exact Laws.OneRow.count
  | empty => exact Laws.OneRow.empty
  | full => exact Laws.OneRow.full
  | remaining => exact Laws.OneRow.remaining
  | overflowed => exact Laws.OneRow.overflowed
  | advanceWritePointer => exact Laws.OneRow.advanceWritePointer
  | advanceReadPointer => exact Laws.OneRow.advanceReadPointer
  | backwardWritePointer => exact Laws.OneRow.backwardWritePointer
  | backwardReadPointer => exact Laws.OneRow.backwardReadPointer

/-- A mask that leaves one bit free leaves two words. -/
theorem eq_or_of_and_not_twoPow {w m : Word} {k : Nat} (h : w &&& ~~~BitVec.twoPow 32 k = m) :
    w = m ∨ w = m ||| BitVec.twoPow 32 k := by
  subst h
  have hw : w = w &&& ~~~BitVec.twoPow 32 k ||| w &&& BitVec.twoPow 32 k := by
    ext; simp; grind
  rw [BitVec.and_twoPow] at hw
  split at hw
  · exact .inr hw
  · exact .inl (by simpa using hw)

/-- A word that spells a row with the free bit k is the word of one of the row's two commands. -/
theorem exists_encode_of_freeBit {w : Word} (k : Nat) (i i' : Instr) (hopc : i.opc = i'.opc)
    (hbit : encode i' = encode i ||| BitVec.twoPow 32 k) (h : w &&& ~~~BitVec.twoPow 32 k = encode i) :
    ∃ j : Instr, j.opc = i.opc ∧ encode j = w := by
  rcases eq_or_of_and_not_twoPow h with rfl | rfl
  · exact ⟨i, rfl, rfl⟩
  · exact ⟨i', hopc.symm, hbit⟩

/-- A word that spells a row is the word of one of the row's commands: two where bit OW or bit CM is free, else one. -/
theorem exists_encode_of_row {w : Word} {i : Instr} (h : w &&& i.rowMask = BitVec.ofNat 32 i.opc) :
    ∃ j : Instr, j.opc = i.opc ∧ encode j = w := by
  cases i with
  | configure ow => exact exists_encode_of_freeBit 9 (.configure false) (.configure true) rfl (by decide) h
  | setOverwritable ow =>
    exact exists_encode_of_freeBit 9 (.setOverwritable false) (.setOverwritable true) rfl (by decide) h
  | writeN cm => exact exists_encode_of_freeBit 8 (.writeN .inc) (.writeN .const) rfl (by decide) h
  | readN cm => exact exists_encode_of_freeBit 8 (.readN .inc) (.readN .const) rfl (by decide) h
  | peekAtN cm => exact exists_encode_of_freeBit 8 (.peekAtN .inc) (.peekAtN .const) rfl (by decide) h
  | _ => exact ⟨_, rfl, h.symm.trans (BitVec.and_allOnes (x := w))⟩

theorem exists_decode_of_row {w : Word} {i : Instr} (h : w &&& i.rowMask = BitVec.ofNat 32 i.opc) :
    ∃ j : Instr, j.opc = i.opc ∧ decode w = .instr j := by
  obtain ⟨j, hopc, hj⟩ := exists_encode_of_row h
  exact ⟨j, hopc, decode_eq_instr_iff_encode.2 hj⟩

/-- Settles O3: the legal words are the encoder's words, and a word that spells a row decodes to a command of that row, which is
one command. -/
theorem exactlyTheLegalWordsDecode : Obligations.ExactlyTheLegalWordsDecode := by
  refine ⟨fun w => ?_, rfl, by decide, by decide, fun w i h => ?_, fun w i => exists_decode_of_row, fun w i j hi hj => ?_⟩
  · simp only [mem_legalWords_iff, decode_eq_instr_iff_encode]
  · rw [eq_encode_of_decode h]
    exact encode_and_rowMask i
  · obtain ⟨i', hopci, hi'⟩ := exists_decode_of_row hi
    obtain ⟨j', hopcj, hj'⟩ := exists_decode_of_row hj
    obtain rfl : i' = j' := Decoded.instr.inj (hi'.symm.trans hj')
    exact hopci.symm.trans hopcj

/-! ## Legality (R83, R86) -/

/-- The assigned operation codes (R84). -/
def assignedOpcs : List Nat :=
  [0x01, 0x02, 0x03, 0x04, 0x05, 0x08, 0x09, 0x0A, 0x0B, 0x0C, 0x0D, 0x0E, 0x10, 0x11, 0x12, 0x13, 0x14,
   0x18, 0x19, 0x1A, 0x1B]

/-- The opcode map reads a command exactly under R83's conditions (b), (c) and (d). -/
theorem exists_decodeOpc_iff (f : Fields) :
    (∃ i, decodeOpc f = .instr i) ↔
      f.opc ∈ assignedOpcs ∧ (f.cm = false ∨ f.opc ∈ [0x05, 0x09, 0x0B]) ∧ (f.ow = false ∨ f.opc ∈ [0x01, 0x03]) := by
  unfold decodeOpc
  split <;> simp_all [plainOp_eq_instr, copyOp_eq_instr, owOp_eq_instr, assignedOpcs]

/-- A word is legal exactly under R83's four conditions. -/
theorem exists_decode_iff (w : Word) :
    (∃ i, decode w = .instr i) ↔
      (w.toNat / 32 % 8 = 0 ∧ w.toNat / 1024 = 0) ∧ w.toNat % 32 ∈ assignedOpcs ∧
        (w.toNat / 256 % 2 = 0 ∨ w.toNat % 32 ∈ [0x05, 0x09, 0x0B]) ∧
        (w.toNat / 512 % 2 = 0 ∨ w.toNat % 32 ∈ [0x01, 0x03]) := by
  have h := exists_decodeOpc_iff (fieldsOf w)
  rw [← Bool.toNat_eq_zero, ← Bool.toNat_eq_zero, fieldsOf_cm, fieldsOf_ow, fieldsOf_opc] at h
  simp only [decode_eq_instr, exists_and_left, fieldsOf_res1, fieldsOf_res2, h, and_assoc]

theorem runWord_of_not_instr {w : Word} (h : ¬ ∃ i, decode w = .instr i) (s : State) :
    runWord w s = .next (s.complete .illegal 0 0) := by
  cases hd : decode w with
  | instr i => exact absurd ⟨i, hd⟩ h
  | illegal why => exact runWord_of_illegal hd s

/-- The reserved operation codes (R86) are not assigned. -/
theorem not_mem_assignedOpcs_of_reserved :
    ∀ c ∈ [0x00, 0x06, 0x07, 0x0F, 0x15, 0x16, 0x17, 0x1C, 0x1D, 0x1E, 0x1F], c ∉ assignedOpcs := by decide

/-- Settles O4: legality is R83's conditions on the fields, and any other word completes with ILLEGAL; a reserved code is not
an assigned one. -/
theorem illegalWordsComplete : Obligations.IllegalWordsComplete := by
  intro w opc legal
  have hlegal : (∃ i, decode w = .instr i) ↔ legal := exists_decode_iff w
  have hillegal (hn : ¬ legal) := runWord_of_not_instr (hlegal.not.2 hn)
  refine ⟨hlegal.symm, hillegal, fun hreserved => hillegal fun ⟨_, hassigned, _⟩ => ?_⟩
  exact not_mem_assignedOpcs_of_reserved opc hreserved hassigned

/-- Settles O1: each of the twelve words is decoded. -/
theorem specWordsDecode : Obligations.SpecWordsDecode := by
  unfold Obligations.SpecWordsDecode
  decide

end Sys2Proof.Machine
end

section
/-! Proofs of the encoding family (30_encoding.md), third part: the host writes a statement assembles to. -/

namespace Sys2Proof.Machine

open Sys2Proof

/-! ## Runs of host writes -/

theorem run_succ_of_step {s t : State} (h : step s = .next t) (n : Nat) : core.run (n + 1) s = core.run n t := by
  have h' : core.step s = .next t := h
  simp only [Host.Core.run, h']

/-- The host write of the register at word offset k of port p's window (10_state.md R29). -/
def regWrite (P : Params) (p : Nat) (w : Nat × Word) : Event := .hostWrite (P.portBase + windowBytes * p + 4 * w.1) 4 w.2

/-- A port's registers after host writes, in order (10_state.md R29, R30). -/
def PortState.writeRegs (q : PortState) (ws : List (Nat × Word)) : PortState := ws.foldl (fun q w => q.writeReg w.2 w.1) q

theorem writeRegs_append (q : PortState) (ws ws' : List (Nat × Word)) :
    q.writeRegs (ws ++ ws') = (q.writeRegs ws).writeRegs ws' := List.foldl_append

theorem writeRegs_singleton (q : PortState) (w : Nat × Word) : q.writeRegs [w] = q.writeReg w.2 w.1 := rfl

/-- Running host writes of one port's registers writes them in order. -/
theorem run_regWrites {p : Nat} {rest : List Event} (ws : List (Nat × Word)) (hk : ∀ w ∈ ws, w.1 < 8) {s : State}
    {q : PortState} (hb : s.params.portBase % 4 = 0) (hl : s.ports.length = s.params.nports) (hq : s.ports[p]? = some q) :
    core.run ws.length { s with agenda := ws.map (regWrite s.params p) ++ rest } =
      .next { s with
        agenda := rest
        ports := s.ports.set p (q.writeRegs ws)
        resp := if ws = [] then s.resp else .written } := by
  induction ws generalizing s q with
  | nil =>
    obtain ⟨hlt, rfl⟩ := List.getElem?_eq_some_iff.1 hq
    simp [Host.Core.run, PortState.writeRegs]
  | cons w ws ih =>
    obtain ⟨hw, hws⟩ := List.forall_mem_cons.1 hk
    have hlt : p < s.ports.length := (List.getElem?_eq_some_iff.1 hq).1
    have hstep := step_hostWrite_register (rest := ws.map (regWrite s.params p) ++ rest) (off := 4 * w.1) (v := w.2)
      (q' := q.writeReg w.2 w.1) hb hl hq (by omega) (by omega) (by rw [Nat.mul_div_cancel_left _ (by decide)])
    have hrest := ih hws (s := { s with ports := s.ports.set p (q.writeReg w.2 w.1), resp := .written }) hb
      (by simpa using hl) (List.getElem?_set_self hlt)
    refine ((run_succ_of_step hstep _).trans hrest).trans ?_
    simp [PortState.writeRegs]

/-! ## The writes of a statement (R88) -/

/-- The registers a statement writes, in the order of R88. -/
def stmtRegs (st : Stmt) : List (Nat × Word) :=
  let i := Stmt.instr st
  (if i.usesA then [(1, BitVec.ofNat 32 (firstGiven [st.depth, st.off]))] else []) ++
  (if i.usesB then [(2, BitVec.ofNat 32 (firstGiven [st.isize, st.n]))] else []) ++
  (if i.usesX then [(3, BitVec.ofNat 32 (firstGiven [st.base, st.src, st.dst]))] else []) ++
  [(0, encode i)]

theorem stmtWrites_eq (P : Params) (st : Stmt) : stmtWrites P st = (stmtRegs st).map (regWrite P st.port) := by
  simp [stmtWrites, stmtRegs, regWrite, apply_ite (List.map _)]

theorem assemble_of_wf {P : Params} {st : Stmt} (h : st.wf P = true) :
    assemble P st = (stmtRegs st).map (regWrite P st.port) := by
  rw [assemble, if_pos h, stmtWrites_eq]

theorem stmtRegs_ne_nil (st : Stmt) : stmtRegs st ≠ [] := by simp [stmtRegs]

theorem stmtRegs_offset_lt (st : Stmt) : ∀ w ∈ stmtRegs st, w.1 < 8 := by
  simp only [stmtRegs, List.mem_append, List.mem_ite_nil_right, List.mem_singleton]
  rintro w (((⟨-, rfl⟩ | ⟨-, rfl⟩) | ⟨-, rfl⟩) | rfl) <;> simp

/-- An operand write that stands only where the command uses the operand (R88). -/
theorem writeRegs_operand {q : PortState} (hidle : q.busy = false) (uses : Bool) (v : Word) :
    q.writeRegs (if uses then [(1, v)] else []) = { q with argA := if uses then v.setWidth 16 else q.argA } ∧
    q.writeRegs (if uses then [(2, v)] else []) = { q with argB := if uses then v.setWidth 16 else q.argB } ∧
    q.writeRegs (if uses then [(3, v)] else []) = { q with argAddr := if uses then v else q.argAddr } := by
  cases uses <;> simp [PortState.writeRegs, writeReg_of_idle hidle]

/-- On an idle port the writes of a statement leave the operands in the registers the command uses, and the command pending. -/
theorem writeRegs_stmtRegs {q : PortState} (hidle : q.busy = false) (st : Stmt) :
    q.writeRegs (stmtRegs st) = { q with
      argA := if (Stmt.instr st).usesA then BitVec.ofNat 16 (firstGiven [st.depth, st.off]) else q.argA
      argB := if (Stmt.instr st).usesB then BitVec.ofNat 16 (firstGiven [st.isize, st.n]) else q.argB
      argAddr := if (Stmt.instr st).usesX then BitVec.ofNat 32 (firstGiven [st.base, st.src, st.dst]) else q.argAddr
      pending := some (encode (Stmt.instr st)) } := by
  unfold stmtRegs
  simp only [writeRegs_append]
  rw [(writeRegs_operand hidle _ _).1, (writeRegs_operand (by exact hidle) _ _).2.1,
    (writeRegs_operand (by exact hidle) _ _).2.2, writeRegs_singleton, (writeReg_of_idle (by exact hidle) _).1]
  simp only [BitVec.setWidth_ofNat_of_le (show 16 ≤ 32 by decide)]

/-- Settles O52: a well-formed statement assembles to host writes of its port's registers, which leave its operands there and
its command pending. -/
theorem assembledStatementIssues : Obligations.AssembledStatementIssues := by
  intro s st q rest hwf hl hst hq hidle i
  obtain ⟨-, -, -, hb, -⟩ := hwf
  have hrun := run_regWrites (rest := rest) (stmtRegs st) (stmtRegs_offset_lt st) hb hl hq
  rw [writeRegs_stmtRegs hidle, if_neg (stmtRegs_ne_nil st)] at hrun
  rw [assemble_of_wf hst, List.length_map]
  exact hrun

end Sys2Proof.Machine
end

section
/-! Facts of the configuration family (40_configuration.md): the shared registers as one value, and the part of them a command
cannot write. -/

namespace Sys2Proof.Machine

open Sys2Proof

/-! ## The shared registers (10_state.md R20) -/

/-- The nine shared registers S0 to S8. -/
structure SharedRegs where
  configured : Bool
  bufBase : Word
  depth : U16
  itemSize : U16
  ovw : Bool
  maxIndex : U16
  unused : U16
  wrIdx : U16
  rdIdx : U16

namespace SharedRegs

/-- All but OVW, which is set to a fixed value; below likewise. -/
def exceptOvw (r : SharedRegs) : SharedRegs := { r with ovw := false }

/-- All but WR_IDX. -/
def exceptWr (r : SharedRegs) : SharedRegs := { r with wrIdx := 0 }

/-- All but RD_IDX. -/
def exceptRd (r : SharedRegs) : SharedRegs := { r with rdIdx := 0 }

/-- All but the four registers CLEAR writes (R101). -/
def exceptIndices (r : SharedRegs) : SharedRegs := { r with maxIndex := 0, unused := 0, wrIdx := 0, rdIdx := 0 }

/-- What CONFIGURE alone writes (R105). -/
def configuration (r : SharedRegs) : Word × U16 × U16 × Bool := (r.bufBase, r.depth, r.itemSize, r.configured)

/-- The extended-index constants, which CONFIGURE and CLEAR alone write (R105). -/
def constants (r : SharedRegs) : U16 × U16 := (r.maxIndex, r.unused)

end SharedRegs

/-- The shared registers of a state. -/
def State.shared (s : State) : SharedRegs :=
  { configured := s.configured, bufBase := s.bufBase, depth := s.depth, itemSize := s.itemSize, ovw := s.ovw,
    maxIndex := s.maxIndex, unused := s.unused, wrIdx := s.wrIdx, rdIdx := s.rdIdx }

/-- The part of the shared registers that a command other than CONFIGURE leaves alone, by the "written by" column of R20; of
CONFIGURE, which writes all nine, nothing is left to say. -/
def unwritten : Instr → SharedRegs → SharedRegs
  | .configure _, _ => ⟨false, 0, 0, 0, false, 0, 0, 0, 0⟩
  | .clear, r => r.exceptIndices
  | .setOverwritable _, r => r.exceptOvw
  | .write, r | .writeN _, r | .advanceWritePointer, r | .backwardWritePointer, r => r.exceptWr
  | .read, r | .readN _, r | .peekAt, r | .peekAtN _, r | .getLinearReadInfo, r | .correctReadPointer, r
  | .advanceReadPointer, r | .backwardReadPointer, r => r.exceptRd
  | .getLinearWriteInfo, r | .count, r | .empty, r | .full, r | .remaining, r | .overflowed, r => r

section
variable (s : State)

@[simp] theorem finish_shared (v : U16) (x : Word) : (s.finish v x).shared = s.shared := rfl

@[simp] theorem withBus_shared (b : Bus) : (s.withBus b).shared = s.shared := rfl

@[simp] theorem setWr_exceptWr (v : U16) (k : Int) : (s.setWr v k).shared.exceptWr = s.shared.exceptWr := rfl

@[simp] theorem setRd_exceptRd (v : U16) (k : Int) : (s.setRd v k).shared.exceptRd = s.shared.exceptRd := rfl

@[simp] theorem checkCorrect_exceptRd : (checkCorrect s).st.shared.exceptRd = s.shared.exceptRd := by
  rw [checkCorrect_frame]
  rfl

end

/-! ## Outcomes that keep a part of the shared registers -/

/-- A next state agrees with s on the part `f` of the shared registers. -/
def Keeps (f : SharedRegs → SharedRegs) (s : State) (o : Host.Outcome State Fault Refusal) : Prop :=
  ∀ t, o = .next t → f t.shared = f s.shared

section
variable {f : SharedRegs → SharedRegs} {s : State} {body : State → Host.Outcome State Fault Refusal}

theorem Keeps.next {t : State} (h : f t.shared = f s.shared) : Keeps f s (.next t) := by
  rintro _ ⟨⟩
  exact h

theorem Keeps.fault (why : Fault) : Keeps f s (.fault why) := nofun

/-- A refusal writes no shared register (60_exceptions.md R303). -/
theorem Keeps.refused (c : Code) : Keeps f s (.next (s.raiseError c)) := .next rfl

theorem Keeps.prologue {i : Instr} (h : Keeps f s (body s)) : Keeps f s (Machine.prologue i s body) := by
  rcases prologue_cases i s body with ⟨-, e⟩ | ⟨-, -, c, -, e⟩ | ⟨-, e⟩ <;> rw [e]
  · exact .fault _
  · exact .refused c
  · exact h

theorem Keeps.afterCopy {u : State} {r : Option Bus} (h : ∀ b, Keeps f s (body (u.withBus b))) :
    Keeps f s (Machine.afterCopy u r body) := by
  cases r with
  | none => exact .fault _
  | some b => exact h b

/-- The commands that need a slot: with nothing to move they complete, where REL raises DEPTH_ZERO they are refused, and
otherwise they go on with the slot. -/
theorem Keeps.withSlot {c : Prop} [Decidable c] {rel : Option Nat} {t : State}
    {k : Nat → Host.Outcome State Fault Refusal} (ht : f t.shared = f s.shared) (hk : ∀ slot, Keeps f s (k slot)) :
    Keeps f s (if c then .next t else match rel with
      | none => .next (s.raiseError .depthZero)
      | some slot => k slot) := by
  split
  · exact .next ht
  · cases rel with
    | none => exact .refused _
    | some slot => exact hk slot

end

/-! ## The commands -/

theorem execGetLinearReadInfo_keeps (s : State) : Keeps (·.exceptRd) s (execGetLinearReadInfo s) :=
  .prologue (.withSlot (by simp) fun _ => .next (by simp [State.finishRun]))

theorem execGetLinearWriteInfo_keeps (s : State) : Keeps id s (execGetLinearWriteInfo s) := by
  refine .prologue ?_
  split
  · exact .refused _
  · exact .withSlot rfl fun _ => .next rfl

/-- No command writes a shared register outside its column of R20: the write path leaves all but WR_IDX alone, the read path,
with its CHECK_CORRECT, all but RD_IDX. -/
theorem exec_keeps_unwritten (i : Instr) (s : State) : Keeps (unwritten i) s (exec i s) := by
  unfold exec
  cases i with
  | configure => exact fun _ _ => rfl
  | write | writeN | read | readN | peekAt | peekAtN =>
    exact .prologue (.withSlot (by simp [unwritten]) fun _ => .afterCopy fun _ => .next (by simp [unwritten]))
  | getLinearReadInfo => exact execGetLinearReadInfo_keeps s
  | getLinearWriteInfo => exact execGetLinearWriteInfo_keeps s
  | _ => exact .prologue (.next rfl)

/-! ## The registers a command leaves alone -/

section
variable {i : Instr} (hi : ∀ ow, i ≠ .configure ow) (r : SharedRegs)
include hi

theorem unwritten_configuration : (unwritten i r).configuration = r.configuration := by
  cases i with
  | configure ow => exact absurd rfl (hi ow)
  | _ => rfl

theorem unwritten_constants (hclear : i ≠ .clear) : (unwritten i r).constants = r.constants := by
  cases i with
  | configure ow => exact absurd rfl (hi ow)
  | clear => exact absurd rfl hclear
  | _ => rfl

theorem unwritten_ovw (hset : ∀ ow, i ≠ .setOverwritable ow) : (unwritten i r).ovw = r.ovw := by
  cases i with
  | configure ow => exact absurd rfl (hi ow)
  | setOverwritable ow => exact absurd rfl (hset ow)
  | _ => rfl

theorem unwritten_wrIdx
    (hwr : i ∉ [.clear, .write, .writeN .inc, .writeN .const, .advanceWritePointer, .backwardWritePointer]) :
    (unwritten i r).wrIdx = r.wrIdx := by
  cases i with
  | configure ow => exact absurd rfl (hi ow)
  | writeN cm => cases cm <;> exact absurd (by decide) hwr
  | clear | write | advanceWritePointer | backwardWritePointer => exact absurd (by decide) hwr
  | _ => rfl

theorem unwritten_rdIdx
    (hrd : i ∉ [.clear, .read, .readN .inc, .readN .const, .peekAt, .peekAtN .inc, .peekAtN .const, .getLinearReadInfo,
      .correctReadPointer, .advanceReadPointer, .backwardReadPointer]) :
    (unwritten i r).rdIdx = r.rdIdx := by
  cases i with
  | configure ow => exact absurd rfl (hi ow)
  | readN cm | peekAtN cm => cases cm <;> exact absurd (by decide) hrd
  | clear | read | peekAt | getLinearReadInfo | correctReadPointer | advanceReadPointer | backwardReadPointer =>
    exact absurd (by decide) hrd
  | _ => rfl

end

/-- What depends on the unwritten part alone has the same value after the command. -/
theorem exec_unchanged {i : Instr} {s t : State} (h : exec i s = .next t) {α : Type} (g : SharedRegs → α)
    (hg : ∀ r, g (unwritten i r) = g r) : g t.shared = g s.shared := by
  rw [← hg t.shared, exec_keeps_unwritten i s t h, hg]

/-- A performed command leaves the model's own fields and the parameters as they are. -/
theorem exec_frame {i : Instr} {s t : State} (h : exec i s = .next t) :
    t.agenda = s.agenda ∧ t.resp = s.resp ∧ t.cur = s.cur ∧ t.params = s.params := by
  rcases runWord_next_cases ((runWord_of_instr (decode_encode i) s).trans h) with ⟨c, -, rfl⟩ | ⟨u, v, x, he, -, rfl⟩
  · exact ⟨rfl, rfl, rfl, rfl⟩
  · obtain ⟨-, hcur, hparams, hagenda, hresp, -⟩ := he.frame
    exact ⟨hagenda, hresp, hcur, hparams⟩

/-- No event but a grant and the reset touches a shared register. -/
theorem handle_shared {e : Event} {s t : State} (hgrant : ∀ p, e ≠ .grant p) (hreset : e ≠ .reset)
    (h : handle e s = .next t) : t.shared = s.shared := by
  cases e with
  | grant p => exact absurd rfl (hgrant p)
  | reset => exact absurd rfl hreset
  | hostWrite addr width v =>
    obtain ⟨ports, resp, e, -⟩ := hostWrite_frame addr width v s
    cases h
    rw [e]
    rfl
  | hostRead addr width =>
    obtain ⟨resp, e⟩ := hostRead_frame addr width s
    cases h
    rw [e]
    rfl
  | masterWrite addr b =>
    cases h
    rfl

end Sys2Proof.Machine
end

section
/-! Proofs of the configuration family (40_configuration.md): CONFIGURE, CLEAR, SET_OVERWRITABLE and who writes what. -/

namespace Sys2Proof.Machine

open Sys2Proof

/-! ## Who writes a shared register -/

/-- Settles O14: each register is in the unwritten part of every command that is not listed for it, and the other events keep
them all. -/
theorem onlyListedCommandsWriteSharedRegisters : Obligations.OnlyListedCommandsWriteSharedRegisters := by
  refine ⟨fun i s t h => ⟨fun hi => ?_, exec_frame h⟩, fun e s t hgrant hreset h => ?_⟩
  · have hconf := exec_unchanged h _ (unwritten_configuration hi)
    simp only [SharedRegs.configuration, Prod.mk.injEq] at hconf
    obtain ⟨hbase, hdepth, hitem, hconfigured⟩ := hconf
    refine ⟨hbase, hdepth, hitem, hconfigured, fun hclear => ?_, fun hset => ?_, fun hwr => ?_, fun hrd => ?_⟩
    · have hconst := exec_unchanged h _ fun r => unwritten_constants hi r hclear
      exact Prod.mk.inj hconst
    · exact exec_unchanged h _ fun r => unwritten_ovw hi r hset
    · exact exec_unchanged h _ fun r => unwritten_wrIdx hi r hwr
    · exact exec_unchanged h _ fun r => unwritten_rdIdx hi r hrd
  · have hkept : t.shared = s.shared := handle_shared hgrant hreset h
    simpa only [State.shared, SharedRegs.mk.injEq] using hkept

/-! ## CONFIGURE (R100) -/

theorem isConfigure_eq_false {i : Instr} (hi : ∀ ow, i ≠ .configure ow) : i.isConfigure = false := by
  cases i with
  | configure ow => exact absurd rfl (hi ow)
  | _ => rfl

/-- An empty FIFO with both cursors at 0 meets the contract, whatever its depth. -/
theorem contract_of_cursors_zero {s : State} (hw : s.wrIdx = 0) (hr : s.rdIdx = 0) (hk : s.span = 0) : s.contract = true := by
  by_cases h0 : s.depth = 0
  · exact (contract_of_depth_zero h0).2 ⟨hk, hw.trans hr.symm⟩
  · have hpos : 0 < s.depth.toNat := Nat.pos_of_ne_zero fun e => h0 (BitVec.eq_of_toNat_eq e)
    refine (contract_of_depth_ne_zero h0).2 ?_
    simp [hw, hr, hk, hpos]

/-- A command that empties the FIFO records no ghost fault. -/
theorem finish_of_cursors_zero {s : State} (hw : s.wrIdx = 0) (hr : s.rdIdx = 0) (hk : s.span = 0) (v : U16) (x : Word) :
    s.finish v x = s.complete .ok v x := by
  simp [State.finish, State.recordGhost, contract_of_cursors_zero hw hr hk]

/-- While CONFIGURED = 0 the prologue refuses every command but CONFIGURE. -/
theorem exec_of_unconfigured {i : Instr} {s : State} (hi : ∀ ow, i ≠ .configure ow) (hc : s.configured = false)
    (hp : s.cur < s.ports.length) : ∃ c, c ≠ Code.ok ∧ exec i s = .next (s.raiseError c) := by
  obtain ⟨body, e⟩ := exec_eq_prologue i s
  rcases prologue_cases i s body with ⟨hp', -⟩ | ⟨-, -, c, hok, h⟩ | ⟨⟨-, -, hpass, -⟩, -⟩
  · omega
  · exact ⟨c, hok, e.trans h⟩
  · simp [isConfigure_eq_false hi, hc] at hpass

section
variable {s : State} {ow : Bool}

theorem exec_configure_accepted (hp : Passes (.configure ow) s) (hd : s.opA.toNat ≤ Config.depthMax) :
    exec (.configure ow) s = .next ((s.configureRegs s.opA s.opB s.opX ow).finish 1 0) := by
  unfold exec execConfigure
  exact (prologue_of_passes _ hp).trans (if_neg (Nat.not_lt.2 hd))

theorem exec_configure_rejected (hp : Passes (.configure ow) s) (hd : Config.depthMax < s.opA.toNat) :
    exec (.configure ow) s = .next (s.finish 0 0) := by
  unfold exec execConfigure
  exact (prologue_of_passes _ hp).trans (if_pos hd)

theorem exec_clear_of_passes (hp : Passes .clear s) : exec .clear s = .next (s.clearRegs.finish 1 0) := by
  unfold exec execClear
  exact prologue_of_passes _ hp

theorem exec_setOverwritable_of_passes (hp : Passes (.setOverwritable ow) s) :
    exec (.setOverwritable ow) s = .next ((s.setOvw ow).finish 1 0) := by
  unfold exec execSetOverwritable
  exact prologue_of_passes _ hp

end

/-- Settles O12: an accepted CONFIGURE empties the FIFO, so no ghost fault is recorded with it; a rejected one only completes;
before the first accepted one the prologue refuses every other command. -/
theorem configureResult : Obligations.ConfigureResult := by
  refine ⟨fun ow s hp => ⟨fun hle => ?_, fun hgt => exec_configure_rejected hp hgt⟩, fun i s => exec_of_unconfigured⟩
  rw [exec_configure_accepted hp hle, finish_of_cursors_zero rfl rfl rfl]
  rfl

/-- Settles O13: CLEAR empties the FIFO, so no ghost fault is recorded with it; SET_OVERWRITABLE may record one. -/
theorem clearAndSetOverwritableResult : Obligations.ClearAndSetOverwritableResult := by
  refine ⟨fun s hp => ?_, fun ow s hp => exec_setOverwritable_of_passes hp⟩
  rw [exec_clear_of_passes hp, finish_of_cursors_zero rfl rfl rfl]
  rfl

end Sys2Proof.Machine
end

section
/-! Proofs of the index arithmetic family (41_index_arithmetic.md): the laws R125 to R129, read off the facts modulo 2·DEPTH. -/

namespace Sys2Proof.Machine

open Sys2Proof

/-- A depth of the laws (R125 to R129), which say "for DEPTH ≥ 1", is not the degenerate depth 0. -/
theorem depth_ne_zero_of_one_le {d : U16} (h : 1 ≤ d.toNat) : d ≠ 0 := by
  rintro rfl
  exact absurd h (by decide)

/-- A residue below the modulus is the remainder: the facts modulo 2·DEPTH then give the laws as equations. -/
theorem eq_emod_of_modEq_of_lt {a m : ℕ} {b : ℤ} (h : (a : ℤ) ≡ b [ZMOD 2 * m]) (hlt : a < 2 * m) : (a : ℤ) = b % (2 * m) :=
  calc (a : ℤ) = a % (2 * m) := (Int.emod_eq_of_lt (by omega) (by omega)).symm
    _ = b % (2 * m) := h

section
variable {d : U16} (h0 : d ≠ 0) (hd : d.toNat ≤ Config.depthMax)
include h0 hd

theorem add_unusedOf_toNat (x : U16) : ((x + unusedOf d).toNat : ℤ) = ((x.toNat : ℤ) - 2 * d.toNat) % 2 ^ 16 := by
  have hu := unusedOf_toNat h0 hd
  unfold Config.depthMax at hd
  rw [BitVec.toNat_add, hu]
  omega

theorem sub_unusedOf_toNat (x : U16) : ((x - unusedOf d).toNat : ℤ) = ((x.toNat : ℤ) + 2 * d.toNat) % 2 ^ 16 := by
  have hu := unusedOf_toNat h0 hd
  unfold Config.depthMax at hd
  rw [BitVec.toNat_sub, hu]
  omega

theorem adv_lt {p o : U16} (hp : p.toNat < 2 * d.toNat) (ho : o.toNat ≤ 2 * d.toNat) :
    (adv (maxIndexOf d) (unusedOf d) p o).toNat < 2 * d.toNat := by
  rw [adv_toNat h0 hd hp]
  split <;> omega

theorem bwd_lt {p o : U16} (hp : p.toNat < 2 * d.toNat) (ho : o.toNat ≤ 2 * d.toNat) :
    (bwd (maxIndexOf d) (unusedOf d) p o).toNat < 2 * d.toNat := by
  rw [bwd_toNat h0 hd hp (by omega)]
  split <;> omega

/-- DEPTH divides the extended cycle, so REL is addition modulo DEPTH for every offset, not only those up to 2·DEPTH (R122). -/
theorem rel_of_lt {p : U16} (hp : p.toNat < 2 * d.toNat) (o : U16) :
    rel d (maxIndexOf d) (unusedOf d) p o = some ((p.toNat + o.toNat) % d.toNat) := by
  have hmod := (adv_modEq h0 hd hp o).of_mul_left 2
  rw [rel, if_neg h0]
  exact congrArg some (Int.natCast_modEq_iff.1 (by exact_mod_cast hmod))

/-- Two cursors are on one slot exactly when they differ by a multiple of DEPTH (R129). -/
theorem rel_eq_rel_iff {w r : U16} (hw : w.toNat < 2 * d.toNat) (hr : r.toNat < 2 * d.toNat) :
    rel d (maxIndexOf d) (unusedOf d) w 0 = rel d (maxIndexOf d) (unusedOf d) r 0 ↔
      ((w.toNat : ℤ) - r.toNat) % d.toNat = 0 := by
  calc rel d (maxIndexOf d) (unusedOf d) w 0 = rel d (maxIndexOf d) (unusedOf d) r 0
      ↔ w.toNat % d.toNat = r.toNat % d.toNat := by simp [rel_of_lt h0 hd hw, rel_of_lt h0 hd hr]
    _ ↔ (w.toNat : ℤ) % d.toNat = r.toNat % d.toNat := by norm_cast
    _ ↔ _ := Int.emod_eq_emod_iff_emod_sub_eq_zero

/-- The cursors' distance modulo DEPTH is that of the raw count, whose multiples of DEPTH below the cycle are 0 and DEPTH. -/
theorem rawcnt_emod_depth {w r : U16} (hw : w.toNat < 2 * d.toNat) (hr : r.toNat < 2 * d.toNat) :
    ((w.toNat : ℤ) - r.toNat) % d.toNat = (rawcnt (unusedOf d) w r).toNat % d.toNat :=
  ((rawcnt_modEq h0 hd hw hr).of_mul_left 2).symm

end

/-- Settles O15, by the value 2^16 - 2·DEPTH of UNUSED. -/
theorem compensationLaw : Obligations.CompensationLaw := by
  intro d x h1 hd
  have h0 := depth_ne_zero_of_one_le h1
  exact ⟨unusedOf_toNat h0 hd, add_unusedOf_toNat h0 hd x, sub_unusedOf_toNat h0 hd x⟩

/-- Settles O16: ADV is congruent to p + o modulo 2·DEPTH and, with o ≤ 2·DEPTH, below it. -/
theorem advanceLaw : Obligations.AdvanceLaw := by
  refine ⟨fun d p o h1 hd hp ho => ?_, by decide⟩
  have h0 := depth_ne_zero_of_one_le h1
  have hlt := adv_lt h0 hd hp ho
  exact ⟨by exact_mod_cast eq_emod_of_modEq_of_lt (adv_modEq h0 hd hp o) hlt, hlt⟩

/-- Settles O17: BWD is congruent to p - o modulo 2·DEPTH and, with o ≤ 2·DEPTH, below it. -/
theorem backwardLaw : Obligations.BackwardLaw := by
  refine ⟨fun d p o h1 hd hp ho => ?_, by decide⟩
  have h0 := depth_ne_zero_of_one_le h1
  have hlt := bwd_lt h0 hd hp ho
  exact ⟨eq_emod_of_modEq_of_lt (bwd_modEq h0 hd hp (by omega)) hlt, hlt⟩

/-- Settles O18: the raw count is congruent to w - r modulo 2·DEPTH, and below it. -/
theorem countLaw : Obligations.CountLaw := by
  intro d w r h1 hd hw hr
  have h0 := depth_ne_zero_of_one_le h1
  exact eq_emod_of_modEq_of_lt (rawcnt_modEq h0 hd hw hr) (rawcnt_lt h0 hd hw hr)

/-- Settles O19: REL is addition modulo DEPTH, and a raw count of 0 or DEPTH is a distance that DEPTH divides. -/
theorem relativeLaw : Obligations.RelativeLaw := by
  intro d h1 hd
  have h0 := depth_ne_zero_of_one_le h1
  refine ⟨fun p o hp _ => rel_of_lt h0 hd hp o, fun w r hw hr => ⟨rel_eq_rel_iff h0 hd hw hr, fun hc => ?_⟩⟩
  rw [rel_eq_rel_iff h0 hd hw hr, rawcnt_emod_depth h0 hd hw hr]
  rcases hc with hc | hc <;> simp [hc]

end Sys2Proof.Machine
end

section
/-! Proofs of the overflow family (42_overflow.md), first part: CORRECT_READ_POINTER, the cursor moves that keep the contract,
and the recovery from a DMA overrun. -/

namespace Sys2Proof.Machine

open Sys2Proof

/-! ## CORRECT_READ_POINTER (R142) -/

theorem exec_correctReadPointer_of_passes {s : State} (hp : Passes .correctReadPointer s) :
    exec .correctReadPointer s = .next (s.correct.finish 1 0) := by
  unfold exec execCorrectReadPointer
  exact prologue_of_passes _ hp

/-- Settles O20: a passed CORRECT_READ_POINTER corrects and completes. -/
theorem correctReadPointerResult : Obligations.CorrectReadPointerResult :=
  fun _ hp => exec_correctReadPointer_of_passes hp

/-! ## Cursor moves that keep the contract (10_state.md R34) -/

section
variable {s : State}

theorem setWr_contract (h0 : s.depth ≠ 0) (v : U16) (k : ℤ) :
    (s.setWr v k).contract = true ↔
      v.toNat < 2 * s.depth.toNat ∧ s.rdIdx.toNat < 2 * s.depth.toNat ∧ 0 ≤ k ∧ k < 2 * s.depth.toNat :=
  contract_of_depth_ne_zero (s := s.setWr v k) h0

theorem setRd_contract (h0 : s.depth ≠ 0) (v : U16) (k : ℤ) :
    (s.setRd v k).contract = true ↔
      s.wrIdx.toNat < 2 * s.depth.toNat ∧ v.toNat < 2 * s.depth.toNat ∧ 0 ≤ k ∧ k < 2 * s.depth.toNat :=
  contract_of_depth_ne_zero (s := s.setRd v k) h0

theorem bwd_zero_of_depth_zero (hs : Inv s) (h0 : s.depth = 0) (p : U16) : s.bwd p 0 = p := by
  obtain ⟨-, -, -, -, hm, hu, -⟩ := hs
  rw [State.bwd, hm, hu, h0, maxIndexOf_zero, unusedOf_zero]
  simp [bwd]

variable (hs : Inv s) (hc : s.contract = true)
include hs

theorem adv_ofNat_lt (h0 : s.depth ≠ 0) {p : U16} (hp : p.toNat < 2 * s.depth.toNat) {n : ℕ} (hn : n < 2 * s.depth.toNat) :
    (s.adv p (BitVec.ofNat 16 n)).toNat < 2 * s.depth.toNat := by
  obtain ⟨-, -, -, hd, hm, hu, -⟩ := hs
  have hle : (BitVec.ofNat 16 n).toNat ≤ n := Nat.mod_le n _
  rw [State.adv, hm, hu]
  exact adv_lt h0 hd hp (by omega)

include hc

/-- A write of n items keeps the contract where SPAN stays below 2·DEPTH. -/
theorem contract_setWr_adv {n : ℕ} (hn : s.span + n < 2 * s.depth.toNat) :
    (s.setWr (s.adv s.wrIdx (BitVec.ofNat 16 n)) (s.span + n)).contract = true := by
  have h0 : s.depth ≠ 0 := fun h0 => by
    obtain ⟨hspan, -⟩ := (contract_of_depth_zero h0).1 hc
    simp only [h0, hspan, BitVec.ofNat_eq_ofNat, BitVec.toNat_zero] at hn
    omega
  obtain ⟨hw, hr, hlo, -⟩ := (contract_of_depth_ne_zero h0).1 hc
  exact (setWr_contract h0 _ _).2 ⟨adv_ofNat_lt hs h0 hw (by omega), hr, by omega, hn⟩

/-- A read of n items keeps the contract where SPAN covers them. -/
theorem contract_setRd_adv (h0 : s.depth ≠ 0) {n : ℕ} (hn : n ≤ s.span) :
    (s.setRd (s.adv s.rdIdx (BitVec.ofNat 16 n)) (s.span - n)).contract = true := by
  obtain ⟨hw, hr, -, hhi⟩ := (contract_of_depth_ne_zero h0).1 hc
  exact (setRd_contract h0 _ _).2 ⟨hw, adv_ofNat_lt hs h0 hr (by omega), by omega, by omega⟩

/-- At depth 0 the correction moves nothing; otherwise it leaves the read cursor in the index space and SPAN at DEPTH. -/
theorem contract_correct : s.correct.contract = true := by
  by_cases h0 : s.depth = 0
  · obtain ⟨-, hidx⟩ := (contract_of_depth_zero h0).1 hc
    refine (contract_of_depth_zero (s := s.correct) h0).2 ⟨by simp [h0], ?_⟩
    change s.wrIdx = s.bwd s.wrIdx s.depth
    rw [h0, bwd_zero_of_depth_zero hs h0]
  · obtain ⟨hw, -⟩ := (contract_of_depth_ne_zero h0).1 hc
    exact (setRd_contract h0 _ _).2 ⟨hw, bwd_depth_lt hs h0 hw, by omega, by omega⟩

/-- The correction leaves DEPTH items (R145). -/
theorem rawCount_correct (hconf : s.configured = true) (hn : (s.rawCount.toNat : ℤ) = s.span) :
    s.correct.rawCount = s.depth := by
  have hk := spanExact_correct hs (spanExact_of_rawCount_eq hs hc hn)
  have hcount : (s.correct.rawCount.toNat : ℤ) = s.depth.toNat :=
    rawCount_eq_of_spanExact (inv_correct hconf hs) (contract_correct hs hc) hk
  exact BitVec.eq_of_toNat_eq (by exact_mod_cast hcount)

end

/-- A command that leaves the contract standing records no ghost fault. -/
theorem Effect.finish_ghostFault {s u : State} {v : U16} {x : Word} (he : Effect s u) (hg : s.ghostFault = false)
    (hc : u.contract = true) : (u.finish v x).ghostFault = false := by
  obtain ⟨-, -, -, -, -, hghost⟩ := he.frame
  simp [State.finish, hghost, hg, hc]

/-! ## Recovery from an overrun (R143, R145) -/

section
variable {s : State}

theorem ovfp_eq_true_iff {d c : U16} : ovfp d c = true ↔ d < c := by simp [ovfp]

theorem ovfp_self (d : U16) : ovfp d d = false := by simp [ovfp]

theorem cnt_of_ovfp {d c : U16} (h : ovfp d c = true) : cnt d c = d :=
  if_neg (BitVec.not_le.2 (ovfp_eq_true_iff.1 h))

/-- On an overflow CHECK_CORRECT corrects (R141). -/
theorem checkCorrect_st_of_ovfp (h : ovfp s.depth s.rawCount = true) : (checkCorrect s).st = s.correct := by
  rw [checkCorrect, if_pos h]

/-- A command other than CONFIGURE passes on a configured block only (40_configuration.md R100). -/
theorem configured_of_passes {i : Instr} (hi : i.isConfigure = false) (hp : Passes i s) : s.configured = true := by
  obtain ⟨-, -, hconf, -⟩ := hp
  exact hconf.resolve_left (by simp [hi])

theorem exec_advanceWritePointer_of_passes (hp : Passes .advanceWritePointer s) :
    exec .advanceWritePointer s =
      .next ((s.setWr (s.adv s.wrIdx s.opB) (s.span + s.opB.toNat)).finish 1 0) := by
  unfold exec execAdvanceWritePointer
  exact prologue_of_passes _ hp

/-- ADVANCE_WRITE_POINTER (46_manual_pointer.md R220) is free of a ghost fault as long as SPAN stays below 2·DEPTH. -/
theorem exec_advanceWritePointer_faultFree (hs : Inv s) (ht : Tracked s) (hg : s.ghostFault = false)
    (hp : Passes .advanceWritePointer s) (hn : s.span + s.opB.toNat < 2 * s.depth.toNat) :
    ∃ t, exec .advanceWritePointer s = .next t ∧ Inv t ∧ Tracked t ∧ t.ghostFault = false ∧ t.configured = true ∧
      t.depth = s.depth ∧ t.wrIdx = s.adv s.wrIdx s.opB ∧ t.span = s.span + s.opB.toNat := by
  obtain ⟨hc, -⟩ := ht hg
  have hconf := configured_of_passes rfl hp
  have he := Effect.advWr hconf s.opB
  have huc : (s.setWr (s.adv s.wrIdx s.opB) (s.span + s.opB.toNat)).contract = true := by
    simpa using contract_setWr_adv hs hc hn
  rw [exec_advanceWritePointer_of_passes hp]
  exact ⟨_, rfl, inv_finish (zero_lt_space _) (he.inv hs), finish_tracked he hs ht, he.finish_ghostFault hg huc, hconf, rfl,
    rfl, rfl⟩

/-- The correction from a write cursor DEPTH + m past p puts the read cursor m past p. -/
theorem correct_rdIdx_of_wrIdx_modEq {p m : ℕ} (hs : Inv s) (h0 : s.depth ≠ 0) (hw : s.wrIdx.toNat < 2 * s.depth.toNat)
    (hp : s.wrIdx.toNat ≡ p + (s.depth.toNat + m : ℤ) [ZMOD 2 * s.depth.toNat]) :
    s.correct.rdIdx.toNat = (p + m) % (2 * s.depth.toNat) := by
  have hlt : s.correct.rdIdx.toNat < 2 * s.depth.toNat := bwd_depth_lt hs h0 hw
  have hmod : s.correct.rdIdx.toNat ≡ (p + m : ℤ) [ZMOD 2 * s.depth.toNat] :=
    calc (s.correct.rdIdx.toNat : ℤ)
        ≡ s.wrIdx.toNat + -s.depth.toNat [ZMOD 2 * s.depth.toNat] := bwd_modEq_of_inv hs h0 hw hlt
      _ ≡ p + (s.depth.toNat + m) + -s.depth.toNat [ZMOD 2 * s.depth.toNat] := hp.add_right _
      _ = p + m := by ring
  exact_mod_cast eq_emod_of_modEq_of_lt hmod hlt

end

/-- Settles O21: the advanced state is tracked with SPAN = DEPTH + m, which is its raw count; the correction then leaves SPAN,
and with it the raw count, at DEPTH. -/
theorem overflowRecovery : Obligations.OverflowRecovery := by
  intro s m hs ht hg hidx hm0 hm hp hB
  have h0 : s.depth ≠ 0 := depth_ne_zero_of_one_le (by omega)
  obtain ⟨hc, hcount⟩ := ht hg
  obtain ⟨hw, -⟩ := (contract_of_depth_ne_zero h0).1 hc
  have hempty : s.span = 0 := by simpa [State.rawCount, rawcnt, hidx] using hcount.symm
  obtain ⟨t, hexec, hti, htt, htg, hconf, hd, hwr, hspan⟩ :=
    exec_advanceWritePointer_faultFree hs ht hg hp (by omega)
  obtain ⟨htc, htn⟩ := htt htg
  have hd0 : t.depth ≠ 0 := hd ▸ h0
  obtain ⟨hlt, -⟩ := (contract_of_depth_ne_zero hd0).1 htc
  have hraw : t.rawCount.toNat = s.depth.toNat + m := by omega
  have hov : ovfp t.depth t.rawCount = true := by
    rw [ovfp_eq_true_iff, hd, BitVec.lt_def]
    omega
  have hadv : t.wrIdx.toNat ≡ s.wrIdx.toNat + (t.depth.toNat + m : ℤ) [ZMOD 2 * t.depth.toNat] := by
    have hmod := adv_modEq_of_inv hs h0 hw s.opB
    rwa [hB, Nat.cast_add, ← hwr, ← hd] at hmod
  have hleft : t.correct.rawCount = t.depth := rawCount_correct hti htc hconf htn
  refine ⟨t, hexec, htg, hraw, hov, (cnt_of_ovfp hov).trans hd, ?_⟩
  rw [checkCorrect_st_of_ovfp hov, hleft]
  exact ⟨hd ▸ correct_rdIdx_of_wrIdx_modEq hti hd0 hlt hadv, hd, ovfp_self _⟩

end Sys2Proof.Machine
end

section
/-! Proofs of the overflow family (42_overflow.md), second part: on a FIFO that is not overwritable the commands of a port without
the DMA capability keep the contract. -/

namespace Sys2Proof.Machine

open Sys2Proof

/-! ## Outcomes with the contract standing -/

section
variable (s : State) (b : Bus)

@[simp] theorem finish_contract (v : U16) (x : Word) : (s.finish v x).contract = s.contract := rfl

@[simp] theorem withBus_contract : (s.withBus b).contract = s.contract := rfl

@[simp] theorem setWr_withBus_contract (v : U16) (k : ℤ) :
    ((s.withBus b).setWr v k).contract = (s.setWr v k).contract := rfl

@[simp] theorem setRd_withBus_contract (v : U16) (k : ℤ) :
    ((s.withBus b).setRd v k).contract = (s.setRd v k).contract := rfl

@[simp] theorem withBus_adv (p n : U16) : (s.withBus b).adv p n = s.adv p n := rfl

end

/-- In a next state the contract holds. -/
def ContractAfter (o : Host.Outcome State Fault Refusal) : Prop := ∀ t, o = .next t → t.contract = true

section
variable {s : State} {body : State → Host.Outcome State Fault Refusal}

theorem ContractAfter.next {t : State} (h : t.contract = true) : ContractAfter (.next t) := by
  rintro _ ⟨⟩
  exact h

/-- Recording the ghost fault and completing leave the contract as it is. -/
theorem ContractAfter.finish {u : State} {v : U16} {x : Word} (h : u.contract = true) :
    ContractAfter (.next (u.finish v x)) :=
  .next h

theorem ContractAfter.fault (why : Fault) : ContractAfter (.fault why) := nofun

theorem ContractAfter.prologue {i : Instr} (hc : s.contract = true) (h : Passes i s → ContractAfter (body s)) :
    ContractAfter (Machine.prologue i s body) := by
  rcases prologue_cases i s body with ⟨-, e⟩ | ⟨-, -, c, -, e⟩ | ⟨hp, e⟩ <;> rw [e]
  · exact .fault _
  · exact .next hc
  · exact h hp

theorem ContractAfter.afterCopy {u : State} {r : Option Bus} {f : State → State}
    (h : ∀ b, (f (u.withBus b)).contract = true) : ContractAfter (Machine.afterCopy u r fun t => .next (f t)) := by
  cases r with
  | none => exact .fault _
  | some b => exact .next (h b)

/-- The commands that need a slot: with nothing to move they complete, where REL raises DEPTH_ZERO they are refused, and
otherwise they go on with the slot. -/
theorem ContractAfter.withSlot {c : Prop} [Decidable c] {rel : Option Nat} {u : State} {v : U16}
    {x : Word} {k : Nat → Host.Outcome State Fault Refusal} (hs : s.contract = true) (hu : u.contract = true)
    (hk : ¬ c → ∀ slot, ContractAfter (k slot)) :
    ContractAfter (if c then .next (u.finish v x) else match rel with
      | none => .next (s.raiseError .depthZero)
      | some slot => k slot) := by
  split
  · exact .finish hu
  · next hc =>
    cases rel with
    | none => exact .next hs
    | some slot => exact hk hc slot

end

/-! ## What CHECK_CORRECT and WSEL leave to move -/

theorem remain_pos_of_not_fullp {d c : U16} (h : fullp d c = false) : 0 < (remain d c).toNat := by
  have hne : cnt d c ≠ d := by simpa [fullp] using h
  have hle : cnt d c ≤ d := by
    unfold cnt
    split
    · assumption
    · exact BitVec.le_refl d
  unfold remain
  bv_omega

section
variable {s : State}

theorem checkCorrect_inv (hs : Inv s) (hconf : s.configured = true) : Inv (checkCorrect s).st := by
  rcases checkCorrect_cases s with ⟨-, e⟩ | ⟨-, e⟩ <;> rw [e]
  · exact inv_correct hconf hs
  · exact hs

/-- On a FIFO that is not overwritable WSEL takes at most REMAIN items at the write cursor (43_write_path.md R162). -/
theorem wsel_of_not_ovw (ho : s.ovw = false) (n : ℕ) :
    wsel s n =
      { wEff := s.wrIdx, nEff := min n (remain s.depth s.rawCount).toNat, skip := 0,
        span := s.span + (min n (remain s.depth s.rawCount).toNat : ℕ) } := by
  simp [wsel, ho]

variable (hs : Inv s) (hc : s.contract = true) (hn : (s.rawCount.toNat : ℤ) = s.span)
include hn

/-- A write of at most REMAIN items leaves SPAN below 2·DEPTH. -/
theorem span_add_lt_of_le_remain {n : ℕ} (h0 : 0 < n) (hle : n ≤ (remain s.depth s.rawCount).toNat) :
    s.span + n < 2 * s.depth.toNat := by
  unfold remain cnt at hle
  split at hle <;> bv_omega

/-- The count CHECK_CORRECT gives is SPAN after it. -/
theorem checkCorrect_c_eq_span : ((checkCorrect s).c.toNat : ℤ) = (checkCorrect s).st.span := by
  rcases checkCorrect_cases s with ⟨-, e⟩ | ⟨-, e⟩ <;> rw [e]
  · rfl
  · exact hn

omit hn
include hs hc

theorem checkCorrect_contract : (checkCorrect s).st.contract = true := by
  rcases checkCorrect_cases s with ⟨-, e⟩ | ⟨-, e⟩ <;> rw [e]
  · exact contract_correct hs hc
  · exact hc

include hn

/-- After CHECK_CORRECT a read of at most the count it gives keeps the contract. -/
theorem checkCorrect_contract_setRd_adv (hconf : s.configured = true) {n : ℕ} (h0 : 0 < n)
    (hle : n ≤ (checkCorrect s).c.toNat) :
    let t := (checkCorrect s).st
    (t.setRd (t.adv (checkCorrect s).r (BitVec.ofNat 16 n)) (t.span - n)).contract = true := by
  have hspan := checkCorrect_c_eq_span hn
  have hck := checkCorrect_contract hs hc
  have hd : (checkCorrect s).st.depth ≠ 0 := fun hd => by
    obtain ⟨hzero, -⟩ := (contract_of_depth_zero hd).1 hck
    omega
  rw [← checkCorrect_rdIdx]
  exact contract_setRd_adv (checkCorrect_inv hs hconf) hck hd (by omega)

/-! ## The commands -/

theorem execWrite_contractAfter (ho : s.ovw = false) : ContractAfter (execWrite s) := by
  refine .prologue hc fun _ => .withSlot hc hc fun hfull _ => .afterCopy fun _ => ?_
  have hroom := remain_pos_of_not_fullp (by simpa [ho] using hfull)
  simpa using contract_setWr_adv hs hc (span_add_lt_of_le_remain hn one_pos hroom)

theorem execWriteN_contractAfter (ho : s.ovw = false) (cm : CopyMode) : ContractAfter (execWriteN cm s) := by
  refine .prologue hc fun _ => .withSlot hc hc fun hsome _ => .afterCopy fun _ => ?_
  rw [wsel_of_not_ovw ho] at hsome ⊢
  simpa using contract_setWr_adv hs hc (span_add_lt_of_le_remain hn (Nat.pos_of_ne_zero hsome) (Nat.min_le_right _ _))

theorem execRead_contractAfter : ContractAfter (execRead s) := by
  refine .prologue hc fun hp => .withSlot hc (checkCorrect_contract hs hc) fun hsome _ => .afterCopy fun _ => ?_
  have hpos : 0 < (checkCorrect s).c.toNat := Nat.pos_of_ne_zero fun e => hsome (BitVec.eq_of_toNat_eq e)
  simpa using checkCorrect_contract_setRd_adv hs hc hn (configured_of_passes rfl hp) one_pos hpos

theorem execReadN_contractAfter (cm : CopyMode) : ContractAfter (execReadN cm s) := by
  refine .prologue hc fun hp => .withSlot hc (checkCorrect_contract hs hc) fun hsome _ => .afterCopy fun _ => ?_
  simpa using checkCorrect_contract_setRd_adv hs hc hn (configured_of_passes rfl hp) (Nat.pos_of_ne_zero hsome)
    (Nat.min_le_right _ _)

omit hn hs

theorem execGetLinearWriteInfo_contractAfter : ContractAfter (execGetLinearWriteInfo s) := by
  refine .prologue hc fun _ => ?_
  split
  · exact .next hc
  · exact .withSlot hc hc fun _ _ => .finish hc

theorem execConfigure_contractAfter (ow : Bool) : ContractAfter (execConfigure ow s) := by
  refine .prologue hc fun _ => ?_
  split
  · exact .finish hc
  · exact .finish (contract_of_cursors_zero rfl rfl rfl)

include hs hn

/-- The manual commands do not pass the prologue, the queries move nothing, the read path stays within the corrected count, and
the write path within REMAIN. -/
theorem exec_contractAfter (ho : s.ovw = false) (hcap : s.dmaCapable = false) (i : Instr) : ContractAfter (exec i s) := by
  have hck := checkCorrect_contract hs hc
  unfold exec
  cases i with
  | configure ow => exact execConfigure_contractAfter hc ow
  | clear => exact .prologue hc fun _ => .finish (contract_of_cursors_zero rfl rfl rfl)
  | write => exact execWrite_contractAfter hs hc hn ho
  | writeN cm => exact execWriteN_contractAfter hs hc hn ho cm
  | read => exact execRead_contractAfter hs hc hn
  | readN cm => exact execReadN_contractAfter hs hc hn cm
  | peekAt => exact .prologue hc fun _ => .withSlot hc hck fun _ _ => .afterCopy fun _ => by simpa using hck
  | peekAtN => exact .prologue hc fun _ => .withSlot hc hck fun _ _ => .afterCopy fun _ => by simpa using hck
  | getLinearReadInfo => exact .prologue hc fun _ => .withSlot hc hck fun _ _ => .finish hck
  | getLinearWriteInfo => exact execGetLinearWriteInfo_contractAfter hc
  | correctReadPointer => exact .prologue hc fun _ => .finish (contract_correct hs hc)
  | setOverwritable | count | empty | full | remaining | overflowed => exact .prologue hc fun _ => .finish hc
  | advanceWritePointer | advanceReadPointer | backwardWritePointer | backwardReadPointer =>
    exact .prologue hc fun ⟨_, hmanual, _⟩ => absurd (hmanual rfl) (by simp [hcap])

end

/-- A performed word whose next state meets the contract has recorded no ghost fault. -/
theorem runWord_ghostFault_of_contract {w : Word} {s t : State} (h : runWord w s = .next t) (hg : s.ghostFault = false)
    (hc : t.contract = true) : t.ghostFault = false := by
  rcases runWord_next_cases h with ⟨c, -, rfl⟩ | ⟨u, v, x, he, -, rfl⟩
  · exact hg
  · exact he.finish_ghostFault hg hc

/-- Settles O48: an illegal word is refused, and every legal one leaves the contract standing. -/
theorem safeApiKeepsContract : Obligations.SafeApiKeepsContract := by
  intro w s t hs ht hg ho hcap h
  obtain ⟨hc, hn⟩ := ht hg
  refine runWord_ghostFault_of_contract h hg ?_
  cases hd : decode w with
  | instr i => exact exec_contractAfter hs hc hn ho hcap i t ((runWord_of_instr hd s).symm.trans h)
  | illegal why =>
    obtain rfl := Host.Outcome.next.inj ((runWord_of_illegal hd s).symm.trans h)
    exact hc

end Sys2Proof.Machine
end

section
/-! Proofs of the write path family (43_write_path.md): WRITE, WRITE_N in the three cases of WSEL, and what a full overwrite
leaves. -/

namespace Sys2Proof.Machine

open Sys2Proof

/-! ## The counts of R124 -/

theorem cnt_toNat (d c : U16) : (cnt d c).toNat = min c.toNat d.toNat := by
  unfold cnt
  split <;> bv_omega

theorem fullp_iff {d c : U16} : fullp d c = true ↔ d ≤ c := by
  rw [fullp, beq_iff_eq, ← BitVec.toNat_inj, cnt_toNat, min_eq_right_iff, BitVec.le_def]

theorem remain_toNat (d c : U16) : (remain d c).toNat = d.toNat - min c.toNat d.toNat := by
  have hcnt := cnt_toNat d c
  unfold remain
  bv_omega

/-! ## What the write path shares -/

section
variable {i : Instr} {s : State}

/-- At a depth other than 0, REL raises nothing (R122). -/
theorem rel_of_depth_ne_zero (h0 : s.depth ≠ 0) (p o : U16) :
    s.rel p o = some ((s.adv p o).toNat % s.depth.toNat) :=
  if_neg h0

theorem rel_of_depth_zero (h0 : s.depth = 0) (p o : U16) : s.rel p o = none :=
  if_pos h0

/-- An admitted command's copy is made (20_memory.md R54). -/
theorem exists_run_of_admitted {call : CopyCall} (ha : Admitted i s) (hcall : copyCall i s = some call) :
    ∃ b, call.run s.store s.bus = some b := by
  have hsome := (copied_isSome_iff i s).2 ha
  rw [copied, hcall] at hsome
  exact Option.isSome_iff_exists.1 hsome

/-- A passed command that has a next state is one the platform admits. -/
theorem admitted_of_next {t : State} (hp : Passes i s) (h : exec i s = .next t) : Admitted i s := by
  rw [← copied_isSome_iff, copied_of_next h hp, Option.isSome_some]

theorem complete_curPort (hp : s.cur < s.ports.length) (c : Code) (v : U16) (q : Word) :
    (s.complete c v q).curPort = { s.curPort with code := c, resVal := v, resPtr := q, pending := none } := by
  rw [State.curPort, State.complete_cur, List.getD_eq_getElem?_getD, complete_ports_get_cur hp, Option.getD_some]

theorem finish_resVal (hp : s.cur < s.ports.length) (v : U16) (q : Word) : (s.finish v q).curPort.resVal = v :=
  congrArg PortState.resVal (complete_curPort (s := s.recordGhost) hp .ok v q)

end

/-! ## WRITE (R160) -/

section
variable {s : State} (hp : Passes .write s)
include hp

/-- On a full FIFO that is not overwritable WRITE moves nothing. -/
theorem exec_write_of_full (hfull : s.depth ≤ s.rawCount) (ho : s.ovw = false) :
    exec .write s = .next (s.finish 0 0) := by
  change execWrite s = _
  rw [execWrite, prologue_of_passes _ hp, if_pos (by simp [fullp_iff.2 hfull, ho])]

/-- At depth 0 the slot of an overwriting WRITE does not exist. -/
theorem exec_write_of_depth_zero (h0 : s.depth = 0) (ho : s.ovw = true) :
    exec .write s = .next (s.raiseError .depthZero) := by
  change execWrite s = _
  rw [execWrite, prologue_of_passes _ hp, if_neg (by simp [ho]), rel_of_depth_zero h0]

theorem exec_write_of_room (h0 : s.depth ≠ 0) (hroom : s.rawCount < s.depth ∨ s.ovw = true) (ha : Admitted .write s) :
    ∃ b, push s.store .inc s.opX ((s.adv s.wrIdx 0).toNat % s.depth.toNat) 1 0 s.bus = some b ∧
      exec .write s = .next (((s.withBus b).setWr (s.adv s.wrIdx 1) (s.span + 1)).finish 1 0) := by
  have hgo : ¬ (fullp s.depth s.rawCount && !s.ovw) = true := by
    rw [Bool.and_eq_true, fullp_iff, Bool.not_eq_true']
    rintro ⟨hfull, ho⟩
    exact hroom.elim (BitVec.not_lt.2 hfull) (by simp [ho])
  have hrel := rel_of_depth_ne_zero h0 s.wrIdx 0
  obtain ⟨b, hb⟩ := exists_run_of_admitted (call := .push .inc s.opX _ 1 0) ha (call_of_rel_some hgo hrel)
  change push s.store .inc s.opX _ 1 0 s.bus = some b at hb
  refine ⟨b, hb, ?_⟩
  change execWrite s = _
  rw [execWrite, prologue_of_passes _ hp, if_neg hgo, hrel]
  simp only [hb, afterCopy_some, withBus_adv, State.withBus_wrIdx, State.withBus_span]

end

/-- Settles O22: full without overwriting, depth 0, or one item stored. -/
theorem writeResult : Obligations.WriteResult :=
  fun _ hp => ⟨exec_write_of_full hp, exec_write_of_depth_zero hp, exec_write_of_room hp⟩

/-! ## WSEL (R162) -/

section
variable {s : State} {n : ℕ}

/-- Case (b): the full overwrite starts at the read cursor and keeps the last DEPTH items. -/
theorem wsel_of_full_overwrite (ho : s.ovw = true) (hn : s.depth.toNat ≤ n) :
    wsel s n = { wEff := s.rdIdx, nEff := s.depth.toNat, skip := n - s.depth.toNat, span := s.depth.toNat } := by
  simp [wsel, ho, hn]

/-- Case (c): fewer than DEPTH items are all stored at the write cursor. -/
theorem wsel_of_partial_overwrite (ho : s.ovw = true) (hn : n < s.depth.toNat) :
    wsel s n = { wEff := s.wrIdx, nEff := n, skip := 0, span := s.span + n } := by
  simp [wsel, ho, hn]

/-- WSEL never chooses more than DEPTH items, so at depth 0 it chooses none. -/
theorem wsel_nEff_le_depth (s : State) (n : ℕ) : (wsel s n).nEff ≤ s.depth.toNat := by
  cases ho : s.ovw with
  | false =>
    rw [wsel_of_not_ovw ho, remain_toNat]
    exact (Nat.min_le_right _ _).trans (Nat.sub_le _ _)
  | true =>
    rcases Nat.lt_or_ge n s.depth.toNat with hn | hn
    · rw [wsel_of_partial_overwrite ho hn]
      exact hn.le
    · rw [wsel_of_full_overwrite ho hn]

end

/-! ## WRITE_N (R161) -/

section
variable {cm : CopyMode} {s : State} {sel : Selected} (hp : Passes (.writeN cm) s) (hsel : wsel s s.opB.toNat = sel)
include hp hsel

/-- With no item to store WRITE_N moves nothing. -/
theorem exec_writeN_of_none (hnone : sel.nEff = 0) : exec (.writeN cm) s = .next (s.finish 0 0) := by
  change execWriteN cm s = _
  rw [execWriteN, prologue_of_passes _ hp]
  simp only [hsel]
  rw [if_pos hnone]

/-- No path raises DEPTH_ZERO: WSEL chooses items to store at a depth other than 0 only. -/
theorem exec_writeN_of_some (ha : Admitted (.writeN cm) s) (hsome : sel.nEff ≠ 0) :
    ∃ b, push s.store cm s.opX ((s.adv sel.wEff 0).toNat % s.depth.toNat) sel.nEff sel.skip s.bus = some b ∧
      exec (.writeN cm) s = .next (((s.withBus b).setWr (s.adv sel.wEff (BitVec.ofNat 16 sel.nEff)) sel.span).finish
        (BitVec.ofNat 16 sel.nEff) 0) := by
  have hle := wsel_nEff_le_depth s s.opB.toNat
  rw [hsel] at hle
  have h0 : s.depth ≠ 0 := depth_ne_zero_of_one_le ((Nat.pos_of_ne_zero hsome).trans_le hle)
  have hrel := rel_of_depth_ne_zero h0 sel.wEff 0
  subst hsel
  obtain ⟨b, hb⟩ := exists_run_of_admitted (call := .push cm s.opX _ _ _) ha (call_of_rel_some hsome hrel)
  change push s.store cm s.opX _ _ _ s.bus = some b at hb
  refine ⟨b, hb, ?_⟩
  change execWriteN cm s = _
  rw [execWriteN, prologue_of_passes _ hp]
  simp only [if_neg hsome, hrel, hb, afterCopy_some, withBus_adv]

end

/-- Settles O23, by the choice of WSEL in each of its three cases. -/
theorem writeNResult : Obligations.WriteNResult := by
  intro cm s hp ha n D stores
  have hstores {sel : Selected} (hsel : wsel s n = sel) : stores sel.wEff sel.nEff sel.skip sel.span :=
    ⟨exec_writeN_of_none hp hsel, exec_writeN_of_some hp hsel ha⟩
  refine ⟨fun ho => ?_, fun ho hn => hstores (wsel_of_full_overwrite ho hn),
    fun ho hn => hstores (wsel_of_partial_overwrite ho hn)⟩
  have hsel := wsel_of_not_ovw ho n
  rw [remain_toNat] at hsel
  exact hstores hsel

/-! ## The full overwrite (R162, case (b)) -/

section
variable {s : State} (hs : Inv s) (h0 : s.depth ≠ 0) (hr : s.rdIdx.toNat < 2 * s.depth.toNat)
include hs h0 hr

theorem adv_rdIdx_depth_lt : (s.adv s.rdIdx s.depth).toNat < 2 * s.depth.toNat := by
  simpa using adv_ofNat_lt hs h0 hr (n := s.depth.toNat) (by bv_omega)

/-- A write cursor DEPTH past the read cursor has a raw count of DEPTH (R126, R128). -/
theorem rawcnt_adv_rdIdx_depth : rawcnt s.unused (s.adv s.rdIdx s.depth) s.rdIdx = s.depth := by
  obtain ⟨-, -, -, hd, hm, hu, -⟩ := hs
  have hadv := adv_toNat h0 hd hr s.depth
  refine BitVec.eq_of_toNat_eq ?_
  rw [State.adv, hm, hu, rawcnt_toNat h0 hd (adv_lt h0 hd hr (by omega)) hr, hadv]
  split <;> split <;> omega

end

/-- Settles O24: WRITE_N has put the write cursor DEPTH past the read cursor and SPAN at DEPTH. -/
theorem fullOverwriteLeavesDepthItems : Obligations.FullOverwriteLeavesDepthItems := by
  intro cm s t hs hc ho hD hn hp hexec
  have h0 : s.depth ≠ 0 := depth_ne_zero_of_one_le hD
  obtain ⟨-, hr, -⟩ := (contract_of_depth_ne_zero h0).1 hc
  have hD0 : s.depth.toNat ≠ 0 := Nat.one_le_iff_ne_zero.1 hD
  obtain ⟨b, -, hnext⟩ := exec_writeN_of_some hp (wsel_of_full_overwrite ho hn) (admitted_of_next hp hexec) hD0
  simp only [BitVec.ofNat_toNat, BitVec.setWidth_eq] at hnext
  obtain rfl := Host.Outcome.next.inj (hexec.symm.trans hnext)
  obtain ⟨hcur, -⟩ := hp
  have hraw := rawcnt_adv_rdIdx_depth hs h0 hr
  refine ⟨rfl, hraw, finish_resVal hcur _ _, ?_, ?_, rfl⟩
  · exact (congrArg (ovfp s.depth) hraw).trans (ovfp_self s.depth)
  · rw [finish_contract, setWr_withBus_contract, setWr_contract h0]
    exact ⟨adv_rdIdx_depth_lt hs h0 hr, hr, by omega, by omega⟩

end Sys2Proof.Machine
end

section
/-! Proofs of the read path family (44_read_path.md), first part: what READ, READ_N, PEEK_AT and PEEK_AT_N answer. -/

namespace Sys2Proof.Machine

open Sys2Proof

/-! ## What CHECK_CORRECT leaves (42_overflow.md R141) -/

/-- SPAN after CHECK_CORRECT, beside `correctedRd` (10_state.md R33). -/
def correctedSpan (s : State) : Int :=
  if ovfp s.depth s.rawCount then s.depth.toNat else s.span

section
variable (s : State)

theorem correctedRd_eq_ite : correctedRd s = if s.depth < s.rawCount then s.bwd s.wrIdx s.depth else s.rdIdx := by
  simp only [correctedRd, ovfp_eq_true_iff]

theorem correctedSpan_eq_ite : correctedSpan s = if s.depth < s.rawCount then (s.depth.toNat : Int) else s.span := by
  simp only [correctedSpan, ovfp_eq_true_iff]

theorem checkCorrect_st : (checkCorrect s).st = s.setRd (correctedRd s) (correctedSpan s) := by
  rcases checkCorrect_cases s with ⟨h, e⟩ | ⟨h, e⟩ <;>
    simp [e, correctedRd, correctedSpan, h, State.correct, State.setRd]

theorem itemsFrom_eq_min (o n : ℕ) : itemsFrom s o n = min n (min s.rawCount.toNat s.depth.toNat - o) := by
  rw [itemsFrom, cnt_toNat]

theorem itemsFrom_zero_eq_min (n : ℕ) : itemsFrom s 0 n = min n (min s.rawCount.toNat s.depth.toNat) := by
  rw [itemsFrom_eq_min, Nat.sub_zero]

end

/-! ## The shape the read path shares -/

/-- What a command of the read path answers that has m items to give from offset o: with none only the correction happens;
otherwise it pulls them, leaves the read cursor at rd and SPAN at k, and returns m. -/
def Reads (s : State) (cm : CopyMode) (o : U16) (m : ℕ) (rd : U16) (k : Int)
    (out : Host.Outcome State Fault Refusal) : Prop :=
  (m = 0 → out = .next ((s.setRd (correctedRd s) (correctedSpan s)).finish 0 0)) ∧
  (m ≠ 0 → ∃ b, pull s.store cm s.opX ((s.adv (correctedRd s) o).toNat % s.depth.toNat) m s.bus = some b ∧
    out = .next (((s.setRd rd k).withBus b).finish (BitVec.ofNat 16 m) 0))

section
variable {i : Instr} {cm : CopyMode} {s : State} {o : U16} {n m : ℕ}

theorem depth_ne_zero_of_itemsFrom {o : ℕ} (h : itemsFrom s o n ≠ 0) : s.depth ≠ 0 := by
  rw [itemsFrom_eq_min] at h
  exact depth_ne_zero_of_one_le (by omega)

theorem itemsFrom_one_eq_one {o : ℕ} (h : itemsFrom s o 1 ≠ 0) : itemsFrom s o 1 = 1 := by
  rw [itemsFrom_eq_min] at h ⊢
  omega

/-- The meaning of every command of the read path has this form once the prologue has passed. There are items at a depth other
than 0 only, so REL does not raise DEPTH_ZERO (R180). -/
theorem Reads.withSlot {c : Prop} [Decidable c] {f : State → State} {rd : U16} {k : Int} (ha : Admitted i s)
    (hcall : copyCall i s =
      if itemsFrom s o.toNat n = 0 then none else (s.rel (correctedRd s) o).map fun slot => .pull cm s.opX slot m)
    (hm : itemsFrom s o.toNat n ≠ 0 → itemsFrom s o.toNat n = m) (hc : c ↔ itemsFrom s o.toNat n = 0)
    (hf : ∀ b, f ((s.setRd (correctedRd s) (correctedSpan s)).withBus b) =
      ((s.setRd rd k).withBus b).finish (BitVec.ofNat 16 m) 0) :
    Reads s cm o (itemsFrom s o.toNat n) rd k
      (if c then .next ((checkCorrect s).st.finish 0 0) else match s.rel (correctedRd s) o with
        | none => .next (s.raiseError .depthZero)
        | some slot => afterCopy (checkCorrect s).st (pull s.store cm s.opX slot m s.bus) fun t => .next (f t)) := by
  rw [checkCorrect_st]
  refine ⟨fun hnone => if_pos (hc.2 hnone), fun hsome => ?_⟩
  have hrel := rel_of_depth_ne_zero (depth_ne_zero_of_itemsFrom hsome) (correctedRd s) o
  obtain ⟨b, hb⟩ := exists_run_of_admitted ha (hcall.trans (call_of_rel_some hsome hrel))
  change pull s.store cm s.opX _ m s.bus = some b at hb
  rw [hm hsome]
  refine ⟨b, hb, ?_⟩
  simp only [if_neg (mt hc.1 hsome), hrel, hb, afterCopy_some, hf]

end

/-! ## The commands -/

section
variable {cm : CopyMode} {s : State}

theorem exec_read_reads (hp : Passes .read s) (ha : Admitted .read s) :
    Reads s .inc 0 (itemsFrom s 0 1) (s.adv (correctedRd s) 1) (correctedSpan s - 1) (exec .read s) := by
  have hempty : (checkCorrect s).c = 0 ↔ itemsFrom s 0 1 = 0 := by
    rw [itemsFrom_eq]
    bv_omega
  change Reads _ _ _ _ _ _ (execRead s)
  rw [execRead, prologue_of_passes _ hp]
  simp only [checkCorrect_r, checkCorrect_rel, checkCorrect_store, checkCorrect_bus]
  exact .withSlot ha rfl itemsFrom_one_eq_one hempty fun _ => rfl

theorem exec_readN_reads (hp : Passes (.readN cm) s) (ha : Admitted (.readN cm) s) :
    Reads s cm 0 (itemsFrom s 0 s.opB.toNat) (s.adv (correctedRd s) (BitVec.ofNat 16 (itemsFrom s 0 s.opB.toNat)))
      (correctedSpan s - itemsFrom s 0 s.opB.toNat) (exec (.readN cm) s) := by
  have hitems : min s.opB.toNat (checkCorrect s).c.toNat = itemsFrom s 0 s.opB.toNat := by
    rw [itemsFrom_eq, Nat.sub_zero]
  change Reads _ _ _ _ _ _ (execReadN cm s)
  rw [execReadN, prologue_of_passes _ hp]
  simp only [checkCorrect_r, checkCorrect_rel, checkCorrect_store, checkCorrect_bus, hitems]
  exact .withSlot ha rfl (fun _ => rfl) Iff.rfl fun _ => rfl

theorem exec_peekAt_reads (hp : Passes .peekAt s) (ha : Admitted .peekAt s) :
    Reads s .inc s.opA (itemsFrom s s.opA.toNat 1) (correctedRd s) (correctedSpan s) (exec .peekAt s) := by
  have hempty : (checkCorrect s).c ≤ s.opA ↔ itemsFrom s s.opA.toNat 1 = 0 := by
    rw [itemsFrom_eq]
    bv_omega
  change Reads _ _ _ _ _ _ (execPeekAt s)
  rw [execPeekAt, prologue_of_passes _ hp]
  simp only [checkCorrect_r, checkCorrect_rel, checkCorrect_store, checkCorrect_bus]
  exact .withSlot ha rfl itemsFrom_one_eq_one hempty fun _ => rfl

theorem exec_peekAtN_reads (hp : Passes (.peekAtN cm) s) (ha : Admitted (.peekAtN cm) s) :
    Reads s cm s.opA (itemsFrom s s.opA.toNat s.opB.toNat) (correctedRd s) (correctedSpan s) (exec (.peekAtN cm) s) := by
  have hempty : ((checkCorrect s).c ≤ s.opA ∨ itemsFrom s s.opA.toNat s.opB.toNat = 0) ↔
      itemsFrom s s.opA.toNat s.opB.toNat = 0 := by
    rw [itemsFrom_eq]
    bv_omega
  change Reads _ _ _ _ _ _ (execPeekAtN cm s)
  rw [execPeekAtN, prologue_of_passes _ hp]
  simp only [checkCorrect_r, checkCorrect_rel, checkCorrect_store, checkCorrect_bus, ← itemsFrom_eq]
  exact .withSlot ha rfl (fun _ => rfl) hempty fun _ => rfl

end

/-- Settles O31: READ gives one item exactly where the corrected count is not 0. -/
theorem readResult : Obligations.ReadResult := by
  intro s hp ha ovf r k c
  obtain ⟨hnone, hsome⟩ := exec_read_reads hp ha
  rw [correctedRd_eq_ite, correctedSpan_eq_ite] at hnone hsome
  have hitems : itemsFrom s 0 1 = min 1 c := itemsFrom_zero_eq_min s 1
  refine ⟨fun hc => hnone (by omega), fun hc => ?_⟩
  have hone : itemsFrom s 0 1 = 1 := by omega
  rw [hone] at hsome
  exact hsome one_ne_zero

/-- Settles O32: READ_N gives the items from offset 0. -/
theorem readNResult : Obligations.ReadNResult := by
  intro cm s hp ha ovf r k m
  have hreads := exec_readN_reads hp ha
  rw [itemsFrom_zero_eq_min] at hreads
  obtain ⟨hnone, hsome⟩ := hreads
  rw [correctedRd_eq_ite, correctedSpan_eq_ite] at hnone hsome
  exact ⟨hnone, hsome⟩

/-- Settles O33: both peeks give the items from their offset, PEEK_AT at most one, and leave the corrected cursor. -/
theorem peekResults : Obligations.PeekResults := by
  intro i cm s hi hp ha ovf r k n m
  have hreads : Reads s cm s.opA (itemsFrom s s.opA.toNat n) (correctedRd s) (correctedSpan s) (exec i s) := by
    rcases hi with ⟨rfl, rfl⟩ | rfl
    · exact exec_peekAt_reads hp ha
    · exact exec_peekAtN_reads hp ha
  rw [itemsFrom_eq_min] at hreads
  obtain ⟨hnone, hsome⟩ := hreads
  rw [correctedRd_eq_ite, correctedSpan_eq_ite] at hnone hsome
  exact ⟨hnone, hsome⟩

end Sys2Proof.Machine
end

section
/-! Proofs of the read path family (44_read_path.md), second part: items written to an empty FIFO come back (R184). -/

namespace Sys2Proof.Machine

open Sys2Proof

/-! ## Plain memory -/

section
variable {P : Params} (hmap : P.map = [])
include hmap

theorem readable_of_map_nil (a : ℕ) : readable P a = true := by
  rw [readable, hmap]
  rfl

theorem storable_of_map_nil (a : ℕ) : storable P a = true := by
  rw [storable, hmap]
  rfl

theorem isDevice_of_map_nil (a : ℕ) : isDevice P a = false := by
  rw [isDevice, hmap]
  rfl

/-- Plain memory admits every access (20_memory.md R54). -/
theorem shape_admitted_of_map_nil (x : Shape) : x.admitted P = true := by
  refine List.all_eq_true.2 fun a _ => ?_
  split
  · exact writable_of_storable (storable_of_map_nil hmap a)
  · exact readable_of_map_nil hmap a

end

theorem admitted_of_map_nil {i : Instr} {s : State} (hmap : s.params.map = []) : Admitted i s :=
  fun x _ => shape_admitted_of_map_nil hmap x

/-! ## A PUSH and the PULL of the same items -/

/-- Every address of the array is one that an item at slot 0 on has, so a byte apart from those is apart from every run of items
(20_memory.md R53). -/
theorem ne_ba_of_outside {g : Store} {z : ℕ} (hpos : 0 < g.cap) (hz : ∀ u < g.cap, z ≠ g.ba 0 u) (rel0 t : ℕ) :
    z ≠ g.ba rel0 t := by
  have hslot : g.ba rel0 t = g.ba 0 ((rel0 * g.isize + t) % g.cap) := by simp [Store.ba]
  rw [hslot]
  exact hz _ (Nat.mod_lt _ hpos)

/-- No other master comes in between while none is listed. -/
theorem push_race_nil {g : Store} {cm : CopyMode} {xa rel0 n skip : ℕ} {b b' : Bus} (hquiet : b.race = [])
    (h : push g cm xa rel0 n skip b = some b') : b'.race = [] := by
  refine push_rule (fun c => c.race = []) (fun a k c r hc hr => ?_) (fun a bytes c c' hc hw => ?_) hquiet h
  · obtain ⟨-, -, -, hrace, -⟩ := Bus.readAccess_cases hr
    rw [hrace, hc, List.tail_nil]
  · obtain ⟨-, -, hrace, -⟩ := Bus.writeAccess_cases hw
    rw [hrace, hc, List.tail_nil]

section
variable {g : Store} {rel0 n : ℕ} (hmap : g.params.map = []) (hn : n ≤ g.depth) (hspace : g.cap ≤ g.params.space)
include hmap hn hspace

/-- On plain memory, at most DEPTH items that a PUSH takes from outside the array and a PULL from the same slot delivers outside
it arrive byte for byte. The external addresses are operands, reduced to the space (30_encoding.md R82). -/
theorem pull_push_byteAt {x y : ℕ} {b b₁ b₂ : Bus} (hquiet : b.race = [])
    (hsrc : ∀ t < n * g.isize, ∀ u < g.cap, (x + t) % g.params.space ≠ g.ba 0 u)
    (hdst : ∀ t < n * g.isize, ∀ u < g.cap, (y + t) % g.params.space ≠ g.ba 0 u)
    (hpush : push g .inc (x % g.params.space) rel0 n 0 b = some b₁)
    (hpull : pull g .inc (y % g.params.space) rel0 n b₁ = some b₂) {t : ℕ} (ht : t < n * g.isize) :
    b₂.byteAt ((y + t) % g.params.space) = b.byteAt ((x + t) % g.params.space) := by
  have hcap : n * g.isize ≤ g.cap := Nat.mul_le_mul_right _ hn
  have hpos : 0 < g.cap := (Nat.zero_lt_of_lt ht).trans_le hcap
  obtain ⟨c₁, hc₁, hstored, -⟩ := pushIncStoresTheBytes g (x % g.params.space) rel0 n 0 b hquiet hcap hspace
    (fun _ _ => ⟨readable_of_map_nil hmap _, isDevice_of_map_nil hmap _⟩) (fun _ _ => storable_of_map_nil hmap _)
    (fun t ht u _ => by
      simpa only [Nat.zero_mul, Nat.add_zero, Nat.mod_add_mod] using ne_ba_of_outside hpos (hsrc t ht) rel0 u)
  obtain ⟨c₂, hc₂, hdelivered, -⟩ := pullIncDeliversTheBytes g (y % g.params.space) rel0 n b₁
    (push_race_nil hquiet hpush) hcap (hcap.trans hspace)
    (fun _ _ => ⟨readable_of_map_nil hmap _, isDevice_of_map_nil hmap _⟩) (fun _ _ => storable_of_map_nil hmap _)
    (fun t _ u hu => by
      simpa only [Nat.mod_add_mod] using (ne_ba_of_outside hpos (hdst u hu) rel0 t).symm)
  obtain rfl := Option.some.inj (hc₁.symm.trans hpush)
  obtain rfl := Option.some.inj (hc₂.symm.trans hpull)
  calc c₂.byteAt ((y + t) % g.params.space)
      = c₂.byteAt ((y % g.params.space + t) % g.params.space) := by rw [Nat.mod_add_mod]
    _ = c₁.byteAt (g.ba rel0 t) := hdelivered t ht
    _ = b.byteAt ((x % g.params.space + 0 * g.isize + t) % g.params.space) := hstored t ht
    _ = b.byteAt ((x + t) % g.params.space) := by rw [Nat.zero_mul, Nat.add_zero, Nat.mod_add_mod]

end

/-! ## The host's operands -/

section
variable {s : State}

theorem cur_lt_of_inv (hs : Inv s) : s.cur < s.ports.length := by
  obtain ⟨-, hlen, hcur, -⟩ := hs
  exact hlen ▸ hcur

theorem inv_withArgs (hs : Inv s) (a b : U16) (x : Word) : Inv (s.withArgs a b x) :=
  inv_modifyPort (fun _ => id) hs

theorem withArgs_curPort (h : s.cur < s.ports.length) (a b : U16) (x : Word) :
    (s.withArgs a b x).curPort = { s.curPort with argA := a, argB := b, argAddr := x } := by
  simp [State.curPort, State.withArgs, List.getD_eq_getElem?_getD, List.getElem?_eq_getElem h]

theorem withArgs_opB (h : s.cur < s.ports.length) (a b : U16) (x : Word) : (s.withArgs a b x).opB = b := by
  rw [State.opB, withArgs_curPort h]

theorem withArgs_opX (h : s.cur < s.ports.length) (a b : U16) (x : Word) :
    (s.withArgs a b x).opX = x.toNat % s.params.space := by
  rw [State.opX, withArgs_curPort h, State.withArgs_params]

end

/-! ## A configured block without a ghost fault -/

/-- A configured block that meets the invariant and the contract, its count exact and no ghost fault recorded (10_state.md
R34). -/
structure Steady (s : State) : Prop where
  inv : Inv s
  configured : s.configured = true
  ghostFault : s.ghostFault = false
  contract : s.contract = true
  count : (s.rawCount.toNat : ℤ) = s.span

section
variable {i : Instr} {s t : State} (h : Steady s)
include h

theorem Steady.withArgs (a b : U16) (x : Word) : Steady (s.withArgs a b x) :=
  ⟨inv_withArgs h.inv a b x, h.configured, h.ghostFault, h.contract, h.count⟩

/-- A safe command without a constant address passes (60_exceptions.md R304). -/
theorem Steady.passes (hm : i.manual = false) (hcm : i.copyMode = .inc) : Passes i s :=
  ⟨cur_lt_of_inv h.inv, by simp [hm], .inr h.configured, by simp [hcm]⟩

/-- A command after which the contract holds keeps the count exact and records no ghost fault. -/
theorem Steady.of_exec (hc : ContractAfter (exec i s)) (ht : exec i s = .next t) (hconf : t.configured = true) :
    Steady t := by
  have hword : runWord (encode i) s = .next t := (runWord_of_instr (decode_encode i) s).trans ht
  have hghost := runWord_ghostFault_of_contract hword h.ghostFault (hc t ht)
  obtain ⟨hcontract, hcount⟩ := runWord_tracked h.inv (fun _ => ⟨h.contract, h.count⟩) hword hghost
  exact ⟨runWord_inv h.inv hword, hconf, hghost, hcontract, hcount⟩

end

/-! ## The two commands -/

/-- WRITE_N has stored all its n items at the write cursor (43_write_path.md R161). -/
def State.stored (n : U16) (b : Bus) (s : State) : State :=
  ((s.withBus b).setWr (s.adv s.wrIdx n) (s.span + n.toNat)).finish n 0

/-- READ_N has delivered the n items it was asked for from the read cursor (R181). -/
def State.delivered (n : U16) (b : Bus) (s : State) : State :=
  ((s.setRd (s.adv s.rdIdx n) (s.span - n.toNat)).withBus b).finish n 0

section
variable (n : U16) (b : Bus) (s : State)

@[simp] theorem stored_params : (s.stored n b).params = s.params := by simp [State.stored, State.finish]

@[simp] theorem stored_configured : (s.stored n b).configured = s.configured := by simp [State.stored, State.finish]

@[simp] theorem stored_depth : (s.stored n b).depth = s.depth := by simp [State.stored, State.finish]

@[simp] theorem stored_rdIdx : (s.stored n b).rdIdx = s.rdIdx := by simp [State.stored, State.finish]

@[simp] theorem stored_span : (s.stored n b).span = s.span + n.toNat := by simp [State.stored, State.finish]

@[simp] theorem stored_bus : (s.stored n b).bus = b := by simp [State.stored, State.finish]

@[simp] theorem stored_store : (s.stored n b).store = s.store := by simp [State.stored, State.finish, State.store]

@[simp] theorem stored_adv (p o : U16) : (s.stored n b).adv p o = s.adv p o := by
  simp [State.stored, State.finish, State.adv]

theorem stored_resVal (h : s.cur < s.ports.length) : (s.stored n b).curPort.resVal = n := finish_resVal h n 0

@[simp] theorem delivered_configured : (s.delivered n b).configured = s.configured := by
  simp [State.delivered, State.finish]

@[simp] theorem delivered_span : (s.delivered n b).span = s.span - n.toNat := by simp [State.delivered, State.finish]

theorem delivered_resVal (h : s.cur < s.ports.length) : (s.delivered n b).curPort.resVal = n := finish_resVal h n 0

@[simp] theorem withArgs_store (a b : U16) (x : Word) : (s.withArgs a b x).store = s.store := rfl

@[simp] theorem withArgs_adv (a b : U16) (x : Word) (p o : U16) : (s.withArgs a b x).adv p o = s.adv p o := rfl

@[simp] theorem withArgs_rawCount (a b : U16) (x : Word) : (s.withArgs a b x).rawCount = s.rawCount := rfl

end

section
variable {s : State} {n : U16} (h : Steady s) (hmap : s.params.map = []) (hB : s.opB = n) (h1 : 1 ≤ n.toNat)
  (hn : n.toNat ≤ s.depth.toNat)
include h hmap hB h1 hn

/-- Up to DEPTH items go into an empty FIFO that is not overwritable, which then holds them. -/
theorem exec_writeN_of_empty (ho : s.ovw = false) (hempty : s.rawCount = 0) :
    ∃ b, push s.store .inc s.opX ((s.adv s.wrIdx 0).toNat % s.depth.toNat) n.toNat 0 s.bus = some b ∧
      exec (.writeN .inc) s = .next (s.stored n b) ∧ Steady (s.stored n b) ∧ (s.stored n b).rawCount = n := by
  subst hB
  have hsel := wsel_of_not_ovw ho s.opB.toNat
  have hall : min s.opB.toNat (remain s.depth s.rawCount).toNat = s.opB.toNat := by
    simpa [remain_toNat, hempty] using hn
  rw [hall] at hsel
  obtain ⟨b, hpush, hexec⟩ :=
    exec_writeN_of_some (h.passes rfl rfl) hsel (admitted_of_map_nil hmap) (Nat.one_le_iff_ne_zero.1 h1)
  simp only [BitVec.ofNat_toNat, BitVec.setWidth_eq] at hexec
  have ht : Steady (s.stored s.opB b) :=
    h.of_exec (i := .writeN .inc) (execWriteN_contractAfter h.inv h.contract h.count ho .inc) hexec (by simp [h.configured])
  have hraw := ht.count
  rw [stored_span, ← h.count, hempty] at hraw
  exact ⟨b, hpush, hexec, ht, by bv_omega⟩

/-- A FIFO that holds as many items as READ_N asks for, at most DEPTH, gives them all and is then empty. -/
theorem exec_readN_of_rawCount (hcount : s.rawCount = n) :
    ∃ b, pull s.store .inc s.opX ((s.adv s.rdIdx 0).toNat % s.depth.toNat) n.toNat s.bus = some b ∧
      exec (.readN .inc) s = .next (s.delivered n b) ∧ Steady (s.delivered n b) ∧ (s.delivered n b).rawCount = 0 := by
  subst hB
  have hno : ovfp s.depth s.rawCount = false := by simpa [ovfp, hcount, BitVec.le_def] using hn
  have hall : itemsFrom s 0 s.opB.toNat = s.opB.toNat := by
    rw [itemsFrom_zero_eq_min, hcount, min_eq_left hn, min_self]
  obtain ⟨-, hreads⟩ := exec_readN_reads (h.passes (i := .readN .inc) rfl rfl) (admitted_of_map_nil hmap)
  simp only [hall, correctedRd, correctedSpan, hno, Bool.false_eq_true, if_false, BitVec.ofNat_toNat,
    BitVec.setWidth_eq] at hreads
  obtain ⟨b, hpull, hexec⟩ := hreads (Nat.one_le_iff_ne_zero.1 h1)
  have ht : Steady (s.delivered s.opB b) :=
    h.of_exec (i := .readN .inc) (execReadN_contractAfter h.inv h.contract h.count .inc) hexec (by simp [h.configured])
  have hraw := ht.count
  rw [delivered_span, ← h.count, hcount] at hraw
  exact ⟨b, hpull, hexec, ht, by bv_omega⟩

end

/-- Settles O34: the write leaves n items and no ghost fault, so the read starts where the write did and takes them all; the two
copies then give every byte back. -/
theorem writeThenReadRoundTrip : Obligations.WriteThenReadRoundTrip := by
  intro s n a a' src dst hs ht hg hconf ho hidx h1 hn hmap hquiet hspace hapart
  obtain ⟨hc, hcount⟩ := ht hg
  have hempty : s.rawCount = 0 := by simp [State.rawCount, rawcnt, hidx]
  have h₁ := (Steady.mk hs hconf hg hc hcount).withArgs a n src
  obtain ⟨b₁, hpush, hwrite, ht₁, hraw₁⟩ :=
    exec_writeN_of_empty h₁ hmap (withArgs_opB (cur_lt_of_inv hs) a n src) h1 hn ho hempty
  have h₂ := ht₁.withArgs a' n dst
  obtain ⟨b₂, hpull, hread, ht₂, hraw₂⟩ :=
    exec_readN_of_rawCount h₂ (by simpa using hmap) (withArgs_opB (cur_lt_of_inv ht₁.inv) a' n dst) h1 (by simpa using hn)
      (by simpa using hraw₁)
  refine ⟨_, _, hwrite, hread, stored_resVal n b₁ _ (cur_lt_of_inv h₁.inv),
    delivered_resVal n b₂ _ (cur_lt_of_inv h₂.inv), hraw₂, ht₂.ghostFault, fun t hlt => ?_⟩
  simp only [withArgs_opX (cur_lt_of_inv hs), withArgs_opX (cur_lt_of_inv ht₁.inv), State.withArgs_params,
    State.withArgs_depth, State.withArgs_wrIdx, State.withArgs_rdIdx, State.withArgs_bus, withArgs_store, withArgs_adv,
    stored_params, stored_depth, stored_rdIdx, stored_bus, stored_store, stored_adv, hidx] at hpush hpull
  exact pull_push_byteAt (g := s.store) hmap hn hspace hquiet (fun t ht u hu => (hapart t ht u hu).1)
    (fun t ht u hu => (hapart t ht u hu).2) hpush hpull hlt

end Sys2Proof.Machine
end

section
/-! Proofs of the linear region family (45_linear_region.md), first part: what GET_LINEAR_READ_INFO and GET_LINEAR_WRITE_INFO
answer. -/

namespace Sys2Proof.Machine

open Sys2Proof

/-! ## The answer both commands share -/

/-- The completion with the run of m items at offset o from cursor p, cut at the physical end of the array; with no item the
length and the pointer are 0 (R200, R201). -/
def State.linearRun (p o : U16) (m : ℕ) (s : State) : State :=
  let slot := (s.adv p o).toNat % s.depth.toNat
  s.finish (if m = 0 then 0 else BitVec.ofNat 16 (min m (s.depth.toNat - slot))) (if m = 0 then 0 else s.slotAddr slot)

/-- The last lines of both rules: with nothing to answer they complete with zeros, and otherwise with the run. There is a run at a
depth other than 0 only, so REL raises nothing. -/
theorem withSlot_eq_linearRun {s u : State} {c : Prop} [Decidable c] {p o : U16} {m : ℕ} (hc : c ↔ m = 0)
    (h0 : m ≠ 0 → u.depth ≠ 0) :
    (if c then .next (u.finish 0 0) else match u.rel p o with
      | none => .next (s.raiseError .depthZero)
      | some slot => .next (u.finishRun slot m) : Host.Outcome State Fault Refusal) = .next (u.linearRun p o m) := by
  by_cases hm : m = 0
  · simp [State.linearRun, hc, hm]
  · simp [State.linearRun, State.finishRun, hc, hm, rel_of_depth_ne_zero (h0 hm)]

/-! ## GET_LINEAR_READ_INFO (R200) -/

theorem exec_getLinearReadInfo_of_passes {s : State} (hp : Passes .getLinearReadInfo s) :
    exec .getLinearReadInfo s =
      .next ((checkCorrect s).st.linearRun (checkCorrect s).st.rdIdx s.opA (itemsFrom s s.opA.toNat s.opB.toNat)) := by
  have hempty : ((checkCorrect s).c ≤ s.opA ∨ itemsFrom s s.opA.toNat s.opB.toNat = 0) ↔
      itemsFrom s s.opA.toNat s.opB.toNat = 0 := by
    rw [itemsFrom_eq]
    bv_omega
  have h0 (hsome : itemsFrom s s.opA.toNat s.opB.toNat ≠ 0) : (checkCorrect s).st.depth ≠ 0 := by
    rw [checkCorrect_st]
    exact depth_ne_zero_of_itemsFrom (s := s) hsome
  change execGetLinearReadInfo s = _
  rw [execGetLinearReadInfo, prologue_of_passes _ hp]
  simp only [← checkCorrect_rdIdx, ← itemsFrom_eq]
  exact withSlot_eq_linearRun hempty h0

/-- Settles O35: the state after CHECK_CORRECT answers the run from its read cursor. -/
theorem linearReadResult : Obligations.LinearReadResult := by
  intro s hp ovf r k m slot
  rw [exec_getLinearReadInfo_of_passes hp, checkCorrect_st, itemsFrom_eq_min, correctedRd_eq_ite, correctedSpan_eq_ite]
  rfl

/-! ## GET_LINEAR_WRITE_INFO (R201) -/

section
variable {s : State} {o n : ℕ}

/-- Not overwritable: the free space after the offset bounds the run. -/
theorem lwsel_of_not_ovw (ho : s.ovw = false) :
    lwsel s o n = some (min n (s.depth.toNat - min s.rawCount.toNat s.depth.toNat - o), s.wrIdx) := by
  rw [lwsel, if_pos (by simp [ho]), remain_toNat]
  simp only [Option.some.injEq, Prod.mk.injEq, and_true]
  split <;> omega

/-- Overwritable above 2·DEPTH: CONTRACT. -/
theorem lwsel_of_excess (ho : s.ovw = true) (hn : 2 * s.depth.toNat < n) : lwsel s o n = none := by
  have hge : s.depth.toNat ≤ n := by omega
  simp [lwsel, ho, hge, hn]

/-- The full overwrite starts at the read cursor. -/
theorem lwsel_of_full_overwrite (ho : s.ovw = true) (hge : s.depth.toNat ≤ n) (hle : n ≤ 2 * s.depth.toNat) :
    lwsel s o n = some (s.depth.toNat, s.rdIdx) := by
  simp [lwsel, ho, hge, hle]

/-- Overwritable below DEPTH: all n items at the write cursor. -/
theorem lwsel_of_partial_overwrite (ho : s.ovw = true) (hn : n < s.depth.toNat) : lwsel s o n = some (n, s.wrIdx) := by
  simp [lwsel, ho, hn]

end

section
variable {s : State} (hp : Passes .getLinearWriteInfo s)
include hp

theorem exec_getLinearWriteInfo_of_none (hsel : lwsel s s.opA.toNat s.opB.toNat = none) :
    exec .getLinearWriteInfo s = .next (s.raiseError .contract) := by
  change execGetLinearWriteInfo s = _
  rw [execGetLinearWriteInfo, prologue_of_passes _ hp, hsel]

theorem exec_getLinearWriteInfo_of_some {m : ℕ} {w : U16} (hsel : lwsel s s.opA.toNat s.opB.toNat = some (m, w))
    (hm : m ≤ s.depth.toNat) : exec .getLinearWriteInfo s = .next (s.linearRun w s.opA m) := by
  change execGetLinearWriteInfo s = _
  rw [execGetLinearWriteInfo, prologue_of_passes _ hp, hsel]
  exact withSlot_eq_linearRun Iff.rfl fun hsome => depth_ne_zero_of_one_le ((Nat.pos_of_ne_zero hsome).trans_le hm)

end

/-- Settles O36, by the choice the rule makes in each of its cases. -/
theorem linearWriteResult : Obligations.LinearWriteResult := by
  intro s hp n o D free answers
  have hanswers {w : U16} {m : ℕ} (hsel : lwsel s o n = some (m, w)) (hm : m ≤ D) : answers w m :=
    exec_getLinearWriteInfo_of_some hp hsel hm
  exact ⟨fun ho => hanswers (lwsel_of_not_ovw ho) (by omega),
    fun ho hn => exec_getLinearWriteInfo_of_none hp (lwsel_of_excess ho hn),
    fun ho hge hle => hanswers (lwsel_of_full_overwrite ho hge hle) le_rfl,
    fun ho hn => hanswers (lwsel_of_partial_overwrite ho hn) hn.le⟩

end Sys2Proof.Machine
end

section
/-! Proofs of the linear region family (45_linear_region.md), second part: two calls with an advance between cover the items
(R202). -/

namespace Sys2Proof.Machine

open Sys2Proof

/-! ## Cursors and slots -/

section
variable {s : State} (hs : Inv s)
include hs

/-- The slot of a cursor moved by any offset (R122). -/
theorem adv_toNat_mod_depth (h0 : s.depth ≠ 0) {p : U16} (hp : p.toNat < 2 * s.depth.toNat) (o : U16) :
    (s.adv p o).toNat % s.depth.toNat = (p.toNat + o.toNat) % s.depth.toNat := by
  obtain ⟨-, -, -, hd, hm, hu, -⟩ := hs
  have hrel := rel_of_lt h0 hd hp o
  rw [← hm, ← hu] at hrel
  exact Option.some.inj ((rel_of_depth_ne_zero h0 p o).symm.trans hrel)

theorem slotAddr_zero : s.slotAddr 0 = s.bufBase := by
  obtain ⟨-, -, -, -, -, -, hbase, -⟩ := hs
  simp [State.slotAddr, Nat.mod_eq_of_lt hbase]

/-- A cursor moved to the physical end of the array is back on slot 0. -/
theorem slot_after_cut (h0 : s.depth ≠ 0) {p l : U16} (hp : p.toNat < 2 * s.depth.toNat)
    (hl : l.toNat = s.depth.toNat - (s.adv p 0).toNat % s.depth.toNat) :
    (s.adv (s.adv p l) 0).toNat % s.depth.toNat = 0 := by
  have hpos : 0 < s.depth.toNat := Nat.pos_of_ne_zero fun e => h0 (BitVec.eq_of_toNat_eq e)
  have hslot : (s.adv p 0).toNat % s.depth.toNat < s.depth.toNat := Nat.mod_lt _ hpos
  have hlt : (s.adv p l).toNat < 2 * s.depth.toNat := by simpa using adv_ofNat_lt hs h0 hp (n := l.toNat) (by omega)
  rw [adv_toNat_mod_depth hs h0 hp] at hl hslot
  calc (s.adv (s.adv p l) 0).toNat % s.depth.toNat
      = (p.toNat + l.toNat) % s.depth.toNat := by simp [adv_toNat_mod_depth hs h0, hlt, hp]
    _ = (p.toNat % s.depth.toNat + l.toNat) % s.depth.toNat := (Nat.mod_add_mod _ _ _).symm
    _ = s.depth.toNat % s.depth.toNat := by
      congr 1
      simp only [BitVec.ofNat_eq_ofNat, BitVec.toNat_zero, Nat.add_zero] at hl hslot
      omega
    _ = 0 := Nat.mod_self _

end

/-! ## The run a state answers -/

section
variable {s : State} {p o : U16} {m : ℕ}

@[simp] theorem linearRun_bufBase : (s.linearRun p o m).bufBase = s.bufBase := rfl

@[simp] theorem linearRun_depth : (s.linearRun p o m).depth = s.depth := rfl

@[simp] theorem linearRun_ovw : (s.linearRun p o m).ovw = s.ovw := rfl

@[simp] theorem linearRun_wrIdx : (s.linearRun p o m).wrIdx = s.wrIdx := rfl

@[simp] theorem linearRun_rdIdx : (s.linearRun p o m).rdIdx = s.rdIdx := rfl

@[simp] theorem linearRun_rawCount : (s.linearRun p o m).rawCount = s.rawCount := rfl

@[simp] theorem linearRun_dmaCapable : (s.linearRun p o m).dmaCapable = s.dmaCapable := rfl

@[simp] theorem linearRun_adv (q n : U16) : (s.linearRun p o m).adv q n = s.adv q n := rfl

@[simp] theorem withArgs_dmaCapable (a b : U16) (x : Word) : (s.withArgs a b x).dmaCapable = s.dmaCapable := rfl

theorem finish_resPtr (h : s.cur < s.ports.length) (v : U16) (q : Word) : (s.finish v q).curPort.resPtr = q :=
  congrArg PortState.resPtr (complete_curPort (s := s.recordGhost) h .ok v q)

theorem linearRun_resVal_toNat (h : s.cur < s.ports.length) :
    (s.linearRun p o m).curPort.resVal.toNat = min m (s.depth.toNat - (s.adv p o).toNat % s.depth.toNat) := by
  unfold State.linearRun
  rw [finish_resVal h]
  split
  · next hm => simp [hm]
  · rw [BitVec.toNat_ofNat, Nat.mod_eq_of_lt (by omega)]

theorem linearRun_resPtr (h : s.cur < s.ports.length) (hm : m ≠ 0) :
    (s.linearRun p o m).curPort.resPtr = s.slotAddr ((s.adv p o).toNat % s.depth.toNat) := by
  unfold State.linearRun
  rw [finish_resPtr h, if_neg hm]

end

/-- Two runs cover the items: where the run of m items from cursor p of state u is cut short, by l items, the run of the rest from
the cursor advanced by l, answered by a state v of the same configuration, is whole and starts at BUF_BASE. -/
theorem linearRun_cover {u v : State} {p l : U16} {m : ℕ} (hu : Inv u) (hv : Inv v) (hp : p.toNat < 2 * u.depth.toNat)
    (hm : m ≤ u.depth.toNat) (hdepth : v.depth = u.depth) (hbase : v.bufBase = u.bufBase)
    (hl : (u.linearRun p 0 m).curPort.resVal = l) (hcut : l.toNat < m) :
    let rest := v.linearRun (u.adv p l) 0 (m - l.toNat)
    rest.curPort.resVal.toNat = m - l.toNat ∧ rest.curPort.resPtr = u.bufBase ∧
      (u.linearRun p 0 m).curPort.resPtr = u.slotAddr (u.depth.toNat - l.toNat) := by
  have h0 : u.depth ≠ 0 := depth_ne_zero_of_one_le (by omega)
  have hslot : (u.adv p 0).toNat % u.depth.toNat < u.depth.toNat := Nat.mod_lt _ (by omega)
  have hlen := linearRun_resVal_toNat (p := p) (o := 0) (m := m) (cur_lt_of_inv hu)
  rw [hl] at hlen
  have hend : l.toNat = u.depth.toNat - (u.adv p 0).toNat % u.depth.toNat := by omega
  have hadv (q o : U16) : v.adv q o = u.adv q o := by
    obtain ⟨-, -, -, -, hmu, huu, -⟩ := hu
    obtain ⟨-, -, -, -, hmv, huv, -⟩ := hv
    rw [State.adv, State.adv, hmv, huv, hmu, huu, hdepth]
  have hstart : (v.adv (u.adv p l) 0).toNat % v.depth.toNat = 0 := by
    rw [hadv, hdepth]
    exact slot_after_cut hu h0 hp hend
  refine ⟨?_, ?_, ?_⟩
  · rw [linearRun_resVal_toNat (cur_lt_of_inv hv), hstart, hdepth]
    omega
  · rw [linearRun_resPtr (cur_lt_of_inv hv) (by omega), hstart, slotAddr_zero hv, hbase]
  · rw [linearRun_resPtr (cur_lt_of_inv hu) (by omega), hend, Nat.sub_sub_self hslot.le]

/-! ## The commands on a configured block without a ghost fault -/

theorem withArgs_opA {s : State} (h : s.cur < s.ports.length) (a b : U16) (x : Word) : (s.withArgs a b x).opA = a := by
  rw [State.opA, withArgs_curPort h]

section
variable {i : Instr} {s t : State} (h : Steady s)
include h

/-- A command with the effect u after which the contract holds. -/
theorem Steady.finish {u : State} (he : Effect s u) (hconf : u.configured = true) (hc : u.contract = true) {v : U16}
    {x : Word} (hx : x.toNat < u.params.space) : Steady (u.finish v x) := by
  have hg := he.finish_ghostFault (v := v) (x := x) h.ghostFault hc
  obtain ⟨-, hcount⟩ := finish_tracked he h.inv (fun _ => ⟨h.contract, h.count⟩) hg
  exact ⟨inv_finish hx (he.inv h.inv), hconf, hg, hc, hcount⟩

/-- A manual command passes on a port with the DMA capability. -/
theorem Steady.passes_of_dmaCapable (hdma : s.dmaCapable = true) (hcm : i.copyMode = .inc) : Passes i s :=
  ⟨cur_lt_of_inv h.inv, fun _ => hdma, .inr h.configured, by simp [hcm]⟩

theorem Steady.linearRun (p o : U16) (m : ℕ) : Steady (s.linearRun p o m) := by
  refine h.finish (.stay s) h.configured h.contract ?_
  split
  · exact zero_lt_space _
  · exact slotAddr_lt_space s _

theorem Steady.checkCorrect : Steady (checkCorrect s).st where
  inv := checkCorrect_inv h.inv h.configured
  configured := (checkCorrect_configured s).trans h.configured
  ghostFault := by rw [checkCorrect_frame]; exact h.ghostFault
  contract := checkCorrect_contract h.inv h.contract
  count := by
    rw [← checkCorrect_c_eq_span h.count]
    rcases checkCorrect_cases s with ⟨-, e⟩ | ⟨-, e⟩ <;> rw [e]
    rw [rawCount_correct h.inv h.contract h.configured h.count]

/-- CHECK_CORRECT leaves at most DEPTH items (42_overflow.md R141). -/
theorem Steady.checkCorrect_rawCount :
    (Machine.checkCorrect s).st.rawCount.toNat = min s.rawCount.toNat s.depth.toNat := by
  have hcount := h.checkCorrect.count
  rw [← checkCorrect_c_eq_span h.count, checkCorrect_c] at hcount
  rw [← cnt_toNat]
  exact_mod_cast hcount

/-- The cursors lie in the index space (10_state.md R34). -/
theorem Steady.cursors_lt (h0 : s.depth ≠ 0) :
    s.wrIdx.toNat < 2 * s.depth.toNat ∧ s.rdIdx.toNat < 2 * s.depth.toNat := by
  obtain ⟨hw, hr, -⟩ := (contract_of_depth_ne_zero h0).1 h.contract
  exact ⟨hw, hr⟩

end

/-! ## Reading -/

section
variable (s : State)

theorem checkCorrect_bufBase : (checkCorrect s).st.bufBase = s.bufBase := by rw [checkCorrect_frame]

theorem checkCorrect_depth : (checkCorrect s).st.depth = s.depth := by rw [checkCorrect_frame]

theorem checkCorrect_dmaCapable : (checkCorrect s).st.dmaCapable = s.dmaCapable := by
  rw [checkCorrect_frame]
  rfl

theorem checkCorrect_slotAddr (slot : ℕ) : (checkCorrect s).st.slotAddr slot = s.slotAddr slot := by
  rw [checkCorrect_frame]
  rfl

end

/-- Without an overflow CHECK_CORRECT changes nothing (42_overflow.md R141). -/
theorem checkCorrect_st_of_le {s : State} (hle : s.rawCount.toNat ≤ s.depth.toNat) : (checkCorrect s).st = s := by
  rcases checkCorrect_cases s with ⟨hov, -⟩ | ⟨-, e⟩
  · exact absurd (BitVec.lt_def.1 (ovfp_eq_true_iff.1 hov)) (by omega)
  · rw [e]

theorem exec_advanceReadPointer_of_passes {s : State} (hp : Passes .advanceReadPointer s) :
    exec .advanceReadPointer s = .next ((s.setRd (s.adv s.rdIdx s.opB) (s.span - s.opB.toNat)).finish 1 0) := by
  unfold exec execAdvanceReadPointer
  exact prologue_of_passes _ hp

section
variable {s t : State} (h : Steady s)
include h

theorem Steady.next_getLinearReadInfo (hA : s.opA = 0) (hexec : exec .getLinearReadInfo s = .next t) :
    t = (Machine.checkCorrect s).st.linearRun (Machine.checkCorrect s).st.rdIdx 0
      (min s.opB.toNat (min s.rawCount.toNat s.depth.toNat)) := by
  have hrun := exec_getLinearReadInfo_of_passes (h.passes rfl rfl)
  rw [hA, BitVec.ofNat_eq_ofNat, BitVec.toNat_zero, itemsFrom_zero_eq_min] at hrun
  exact Host.Outcome.next.inj (hexec.symm.trans hrun)

/-- An advance by at most the items there are keeps the contract (46_manual_pointer.md R221). -/
theorem Steady.next_advanceReadPointer (h0 : s.depth ≠ 0) (hdma : s.dmaCapable = true)
    (hle : s.opB.toNat ≤ s.rawCount.toNat) (hexec : exec .advanceReadPointer s = .next t) :
    t = (s.setRd (s.adv s.rdIdx s.opB) (s.span - s.opB.toNat)).finish 1 0 ∧ Steady t ∧
      t.rawCount.toNat = s.rawCount.toNat - s.opB.toNat := by
  have hspan := h.count
  have hrun := exec_advanceReadPointer_of_passes (h.passes_of_dmaCapable hdma rfl)
  obtain rfl := Host.Outcome.next.inj (hexec.symm.trans hrun)
  have hc : (s.setRd (s.adv s.rdIdx s.opB) (s.span - s.opB.toNat)).contract = true := by
    simpa using contract_setRd_adv h.inv h.contract h0 (n := s.opB.toNat) (by omega)
  have ht := h.finish (v := 1) (x := 0) (.advRd h.configured s.opB) h.configured hc (zero_lt_space _)
  have hcount : _ = s.span - s.opB.toNat := ht.count
  exact ⟨rfl, ht, by omega⟩

/-- With at most DEPTH items there, an advance and then a second call at offset 0 give the rest from the advanced cursor. -/
theorem Steady.readRest {t' : State} {n : U16} {x : Word} (h0 : s.depth ≠ 0) (hdma : s.dmaCapable = true)
    (hD : s.rawCount.toNat ≤ s.depth.toNat) (hle : s.opB.toNat ≤ s.rawCount.toNat)
    (hadvance : exec .advanceReadPointer s = .next t)
    (hinfo : exec .getLinearReadInfo (t.withArgs 0 n x) = .next t') :
    ∃ v, Steady v ∧ v.depth = s.depth ∧ v.bufBase = s.bufBase ∧
      t' = v.linearRun (s.adv s.rdIdx s.opB) 0 (min n.toNat (s.rawCount.toNat - s.opB.toNat)) := by
  obtain ⟨ht, hst, hcount⟩ := h.next_advanceReadPointer h0 hdma hle hadvance
  have hcur := cur_lt_of_inv hst.inv
  have hdepth : t.depth = s.depth := by rw [ht]; rfl
  have hno : (t.withArgs 0 n x).rawCount.toNat ≤ (t.withArgs 0 n x).depth.toNat := by
    rw [withArgs_rawCount, State.withArgs_depth, hcount, hdepth]
    omega
  have hinfo' := (hst.withArgs 0 n x).next_getLinearReadInfo (withArgs_opA hcur 0 n x) hinfo
  rw [checkCorrect_st_of_le hno, min_eq_left hno, withArgs_opB hcur, withArgs_rawCount, hcount] at hinfo'
  refine ⟨_, hst.withArgs 0 n x, hdepth, ?_, ?_⟩
  · rw [ht]; rfl
  · rw [hinfo', ht]; rfl

/-- Where at most DEPTH items are there and the first call is cut short, the two calls cover what was asked for. -/
theorem Steady.twoReads_cover {t' : State} {l n : U16} {m : ℕ} {x : Word} (hdma : s.dmaCapable = true)
    (hD : s.rawCount.toNat ≤ s.depth.toNat) (hm : m = min n.toNat s.rawCount.toNat)
    (hl : (s.linearRun s.rdIdx 0 m).curPort.resVal = l) (hcut : l.toNat < m)
    (hadvance : exec .advanceReadPointer ((s.linearRun s.rdIdx 0 m).withArgs 0 l x) = .next t)
    (hinfo : exec .getLinearReadInfo (t.withArgs 0 (n - l) x) = .next t') :
    t'.curPort.resVal.toNat = m - l.toNat ∧ t'.curPort.resPtr = s.bufBase ∧
      (s.linearRun s.rdIdx 0 m).curPort.resPtr = s.slotAddr (s.depth.toNat - l.toNat) ∧ t'.ghostFault = false := by
  have h0 : s.depth ≠ 0 := depth_ne_zero_of_one_le (by omega)
  have h1 := h.linearRun s.rdIdx 0 m
  have hB := withArgs_opB (cur_lt_of_inv h1.inv) 0 l x
  obtain ⟨v, hv, hdepth, hbase, rfl⟩ := (h1.withArgs 0 l x).readRest (by simpa using h0) (by simpa using hdma)
    (by simpa using hD) (by rw [hB, withArgs_rawCount, linearRun_rawCount]; omega) hadvance hinfo
  have hrest : min (n - l).toNat (s.rawCount.toNat - l.toNat) = m - l.toNat := by
    rw [BitVec.toNat_sub_of_le (BitVec.le_def.2 (by omega))]
    omega
  obtain ⟨-, hrd⟩ := h.cursors_lt h0
  obtain ⟨hval, hptr, hend⟩ := linearRun_cover h.inv hv.inv hrd (by omega) hdepth hbase hl hcut
  simp only [hB, withArgs_adv, withArgs_rawCount, State.withArgs_rdIdx, linearRun_adv, linearRun_rawCount,
    linearRun_rdIdx, hrest]
  exact ⟨hval, hptr, hend, (hv.linearRun _ _ _).ghostFault⟩

end

/-- Settles O37: CHECK_CORRECT leaves at most DEPTH items, and from there the two calls cover what was asked for. -/
theorem twoCallCoverageRead : Obligations.TwoCallCoverageRead := by
  intro s t1 t2 t3 hs ht hg hA m hp hfirst hcut hdma hadvance hsecond
  obtain ⟨hc, hcount⟩ := ht hg
  have h : Steady s := ⟨hs, configured_of_passes rfl hp, hg, hc, hcount⟩
  have hraw := h.checkCorrect_rawCount
  obtain rfl := h.next_getLinearReadInfo hA hfirst
  have hcover := h.checkCorrect.twoReads_cover (m := m) ((checkCorrect_dmaCapable s).trans hdma)
    (by rw [hraw, checkCorrect_depth]; omega) (by rw [hraw]) rfl hcut hadvance hsecond
  rwa [checkCorrect_bufBase, checkCorrect_slotAddr, checkCorrect_depth] at hcover

/-! ## Writing -/

section
variable {s t : State} (h : Steady s)
include h

theorem Steady.next_getLinearWriteInfo (ho : s.ovw = false) (hA : s.opA = 0) (hexec : exec .getLinearWriteInfo s = .next t) :
    t = s.linearRun s.wrIdx 0 (min s.opB.toNat (s.depth.toNat - min s.rawCount.toNat s.depth.toNat)) := by
  have hrun := exec_getLinearWriteInfo_of_some (h.passes rfl rfl) (lwsel_of_not_ovw ho) (by omega)
  rw [hA, BitVec.ofNat_eq_ofNat, BitVec.toNat_zero, Nat.sub_zero] at hrun
  exact Host.Outcome.next.inj (hexec.symm.trans hrun)

/-- An advance that leaves fewer than 2·DEPTH items keeps the contract (46_manual_pointer.md R220). -/
theorem Steady.next_advanceWritePointer (hdma : s.dmaCapable = true)
    (hlt : s.rawCount.toNat + s.opB.toNat < 2 * s.depth.toNat) (hexec : exec .advanceWritePointer s = .next t) :
    t = (s.setWr (s.adv s.wrIdx s.opB) (s.span + s.opB.toNat)).finish 1 0 ∧ Steady t ∧
      t.rawCount.toNat = s.rawCount.toNat + s.opB.toNat := by
  have hspan := h.count
  have hrun := exec_advanceWritePointer_of_passes (h.passes_of_dmaCapable hdma rfl)
  obtain rfl := Host.Outcome.next.inj (hexec.symm.trans hrun)
  have hc : (s.setWr (s.adv s.wrIdx s.opB) (s.span + s.opB.toNat)).contract = true := by
    simpa using contract_setWr_adv h.inv h.contract (n := s.opB.toNat) (by omega)
  have ht := h.finish (v := 1) (x := 0) (.advWr h.configured s.opB) h.configured hc (zero_lt_space _)
  have hcount : _ = s.span + s.opB.toNat := ht.count
  exact ⟨rfl, ht, by omega⟩

/-- An advance by at most the free slots and then a second call at offset 0 give the rest from the advanced cursor. -/
theorem Steady.writeRest {t' : State} {n : U16} {x : Word} (ho : s.ovw = false) (hdma : s.dmaCapable = true)
    (hle : s.rawCount.toNat + s.opB.toNat ≤ s.depth.toNat) (hD : 0 < s.depth.toNat)
    (hadvance : exec .advanceWritePointer s = .next t)
    (hinfo : exec .getLinearWriteInfo (t.withArgs 0 n x) = .next t') :
    ∃ v, Steady v ∧ v.depth = s.depth ∧ v.bufBase = s.bufBase ∧
      t' = v.linearRun (s.adv s.wrIdx s.opB) 0 (min n.toNat (s.depth.toNat - s.rawCount.toNat - s.opB.toNat)) := by
  obtain ⟨ht, hst, hcount⟩ := h.next_advanceWritePointer hdma (by omega) hadvance
  have hcur := cur_lt_of_inv hst.inv
  have hdepth : t.depth = s.depth := by rw [ht]; rfl
  have hovw : t.ovw = false := by rw [ht]; exact ho
  have hinfo' := (hst.withArgs 0 n x).next_getLinearWriteInfo hovw (withArgs_opA hcur 0 n x) hinfo
  rw [withArgs_opB hcur, withArgs_rawCount, State.withArgs_depth, hcount, hdepth, min_eq_left hle, ← Nat.sub_sub] at hinfo'
  refine ⟨_, hst.withArgs 0 n x, hdepth, ?_, ?_⟩
  · rw [ht]; rfl
  · rw [hinfo', ht]; rfl

/-- Where the first call is cut short, the two calls cover what was asked for. -/
theorem Steady.twoWrites_cover {t' : State} {l n : U16} {m : ℕ} {x : Word} (ho : s.ovw = false) (hdma : s.dmaCapable = true)
    (hm : m = min n.toNat (s.depth.toNat - min s.rawCount.toNat s.depth.toNat))
    (hl : (s.linearRun s.wrIdx 0 m).curPort.resVal = l) (hcut : l.toNat < m)
    (hadvance : exec .advanceWritePointer ((s.linearRun s.wrIdx 0 m).withArgs 0 l x) = .next t)
    (hinfo : exec .getLinearWriteInfo (t.withArgs 0 (n - l) x) = .next t') :
    t'.curPort.resVal.toNat = m - l.toNat ∧ t'.curPort.resPtr = s.bufBase ∧
      (s.linearRun s.wrIdx 0 m).curPort.resPtr = s.slotAddr (s.depth.toNat - l.toNat) ∧ t'.ghostFault = false := by
  have h0 : s.depth ≠ 0 := depth_ne_zero_of_one_le (by omega)
  have h1 := h.linearRun s.wrIdx 0 m
  have hB := withArgs_opB (cur_lt_of_inv h1.inv) 0 l x
  obtain ⟨v, hv, hdepth, hbase, rfl⟩ := (h1.withArgs 0 l x).writeRest (by simpa using ho) (by simpa using hdma)
    (by rw [hB, withArgs_rawCount, linearRun_rawCount, State.withArgs_depth, linearRun_depth]; omega)
    (by rw [State.withArgs_depth, linearRun_depth]; omega) hadvance hinfo
  have hrest : min (n - l).toNat (s.depth.toNat - s.rawCount.toNat - l.toNat) = m - l.toNat := by
    rw [BitVec.toNat_sub_of_le (BitVec.le_def.2 (by omega))]
    omega
  obtain ⟨hwr, -⟩ := h.cursors_lt h0
  obtain ⟨hval, hptr, hend⟩ := linearRun_cover h.inv hv.inv hwr (by omega) hdepth hbase hl hcut
  simp only [hB, withArgs_adv, withArgs_rawCount, State.withArgs_wrIdx, State.withArgs_depth, linearRun_adv,
    linearRun_rawCount, linearRun_wrIdx, linearRun_depth, hrest]
  exact ⟨hval, hptr, hend, (hv.linearRun _ _ _).ghostFault⟩

end

/-- Settles O38: the first call answers from s itself, and the two calls cover what was asked for. -/
theorem twoCallCoverageWrite : Obligations.TwoCallCoverageWrite := by
  intro s t1 t2 t3 hs ht hg hA ho m hp hfirst hcut hdma hadvance hsecond
  obtain ⟨hc, hcount⟩ := ht hg
  have h : Steady s := ⟨hs, configured_of_passes rfl hp, hg, hc, hcount⟩
  obtain rfl := h.next_getLinearWriteInfo ho hA hfirst
  exact h.twoWrites_cover ho hdma rfl rfl hcut hadvance hsecond

end Sys2Proof.Machine
end

section
/-! Proofs of the manual pointer family (46_manual_pointer.md): past the prologue each command moves its cursor by B and
completes, with no check of the result (R224). The two ADVANCE commands have their rules above. -/

namespace Sys2Proof.Machine

open Sys2Proof

theorem exec_backwardWritePointer_of_passes {s : State} (hp : Passes .backwardWritePointer s) :
    exec .backwardWritePointer s = .next ((s.setWr (s.bwd s.wrIdx s.opB) (s.span - s.opB.toNat)).finish 1 0) := by
  unfold exec execBackwardWritePointer
  exact prologue_of_passes _ hp

theorem exec_backwardReadPointer_of_passes {s : State} (hp : Passes .backwardReadPointer s) :
    exec .backwardReadPointer s = .next ((s.setRd (s.bwd s.rdIdx s.opB) (s.span + s.opB.toNat)).finish 1 0) := by
  unfold exec execBackwardReadPointer
  exact prologue_of_passes _ hp

/-- Settles O39: each command that passes the prologue writes its cursor and SPAN and completes. -/
theorem manualPointerResults : Obligations.ManualPointerResults :=
  fun _ => ⟨exec_advanceWritePointer_of_passes, exec_advanceReadPointer_of_passes, exec_backwardWritePointer_of_passes,
    exec_backwardReadPointer_of_passes⟩

end Sys2Proof.Machine
end

section
/-! Facts of the query and exception families: which check of the prologue (60_exceptions.md R304) refuses a command, and what a
completed port holds. -/

namespace Sys2Proof.Machine

open Sys2Proof

section
variable {i : Instr} {s : State}

theorem cur_lt_of_next {t : State} (h : exec i s = .next t) : s.cur < s.ports.length := by
  obtain ⟨body, e⟩ := exec_eq_prologue i s
  by_contra hcur
  rw [e, prologue, if_pos (Nat.not_lt.1 hcur)] at h
  cases h

variable (hcur : s.cur < s.ports.length)
include hcur

theorem exec_of_no_capability (hm : i.manual = true) (hd : s.dmaCapable = false) :
    exec i s = .next (s.raiseError .capability) := by
  obtain ⟨body, e⟩ := exec_eq_prologue i s
  rw [e, prologue, if_neg (Nat.not_le.2 hcur), if_pos (by simp [hm, hd])]

variable (hcap : i.manual = true → s.dmaCapable = true)
include hcap

/-- The second check: the code left open by `exec_of_unconfigured`. -/
theorem exec_of_not_configured (hi : i.isConfigure = false) (hc : s.configured = false) :
    exec i s = .next (s.raiseError .unconfigured) := by
  obtain ⟨body, e⟩ := exec_eq_prologue i s
  rw [e, prologue, if_neg (Nat.not_le.2 hcur), if_neg (by simpa using hcap), if_pos (by simp [hi, hc])]

theorem exec_of_misaligned (hconf : i.isConfigure = true ∨ s.configured = true) (hcm : i.copyMode = .const)
    (hmis : s.misaligned = true) : exec i s = .next (s.raiseError .align) := by
  obtain ⟨body, e⟩ := exec_eq_prologue i s
  rw [e, prologue, if_neg (Nat.not_le.2 hcur), if_neg (by simpa using hcap),
    if_neg (by simpa [or_iff_not_imp_left] using hconf), if_pos (by simp [hcm, hmis])]

/-- A command its port may issue passes, or one of the two later checks refuses it. -/
theorem passes_or_refused :
    Passes i s ∨ ∃ c ∈ [Code.unconfigured, .align], exec i s = .next (s.raiseError c) := by
  by_cases hconf : i.isConfigure = true ∨ s.configured = true
  · by_cases hmis : i.copyMode = .const ∧ s.misaligned = true
    · obtain ⟨hcm, hmis⟩ := hmis
      exact .inr ⟨.align, by decide, exec_of_misaligned hcur hcap hconf hcm hmis⟩
    · exact .inl ⟨hcur, hcap, hconf, by simpa using hmis⟩
  · obtain ⟨hi, hc⟩ := not_or.1 hconf
    exact .inr ⟨.unconfigured, by decide, exec_of_not_configured hcur hcap (by simpa using hi) (by simpa using hc)⟩

end

theorem complete_code {s : State} (hcur : s.cur < s.ports.length) (c : Code) (v : U16) (x : Word) :
    (s.complete c v x).curPort.code = c :=
  congrArg PortState.code (complete_curPort hcur c v x)

theorem complete_busy {s : State} (hcur : s.cur < s.ports.length) (c : Code) (v : U16) (x : Word) :
    (s.complete c v x).curPort.busy = false :=
  congrArg PortState.busy (complete_curPort hcur c v x)

theorem complete_resVal {s : State} (hcur : s.cur < s.ports.length) (c : Code) (v : U16) (x : Word) :
    (s.complete c v x).curPort.resVal = v :=
  congrArg PortState.resVal (complete_curPort hcur c v x)

end Sys2Proof.Machine
end

section
/-! Proofs of the query family (47_query.md): every query is one function of DEPTH and the snapshot count. -/

namespace Sys2Proof.Machine

open Sys2Proof

/-! ## What a query answers -/

/-- The five queries (R240 to R244). -/
def queries : List Instr := [.count, .empty, .full, .remaining, .overflowed]

/-- What a query answers from the depth d and the raw count c; 0 for the other commands. -/
def queryAnswer (d c : U16) : Instr → U16
  | .count => cnt d c
  | .empty => boolU16 (c == 0)
  | .full => boolU16 (fullp d c)
  | .remaining => remain d c
  | .overflowed => boolU16 (ovfp d c)
  | _ => 0

theorem query_prologue : ∀ i ∈ queries, i.manual = false ∧ i.isConfigure = false ∧ i.copyMode = .inc := by decide

section
variable {i : Instr} {s : State} (hi : i ∈ queries)
include hi

theorem exec_query_eq_prologue :
    exec i s = prologue i s fun s => .next (s.finish (queryAnswer s.depth s.rawCount i) 0) := by
  simp only [queries, List.mem_cons, List.not_mem_nil, or_false] at hi
  rcases hi with rfl | rfl | rfl | rfl | rfl <;> rfl

theorem exec_query_of_passes (hp : Passes i s) :
    exec i s = .next (s.finish (queryAnswer s.depth s.rawCount i) 0) :=
  (exec_query_eq_prologue hi).trans (prologue_of_passes _ hp)

/-- On an existing port a query answers its function of the snapshot, or finds the block unconfigured. -/
theorem exec_query (hcur : s.cur < s.ports.length) :
    exec i s = .next (if s.configured then s.finish (queryAnswer s.depth s.rawCount i) 0
      else s.raiseError .unconfigured) := by
  obtain ⟨hm, hconf, hcm⟩ := query_prologue i hi
  have hcap : i.manual = true → s.dmaCapable = true := by simp [hm]
  cases hc : s.configured with
  | false => exact exec_of_not_configured hcur hcap hconf hc
  | true => exact exec_query_of_passes hi ⟨hcur, hcap, .inr hc, by simp [hcm]⟩

theorem exec_query_resVal {t : State} (h : exec i s = .next t) :
    t.curPort.resVal = if s.configured then queryAnswer s.depth s.rawCount i else 0 := by
  have hcur := cur_lt_of_next h
  obtain rfl := Host.Outcome.next.inj (h.symm.trans (exec_query hi hcur))
  split
  · exact finish_resVal hcur _ _
  · exact complete_resVal hcur _ _ _

end

/-- Settles O41: a query only completes, and its answer depends on CONFIGURED, DEPTH and the raw count, which UNUSED and the
cursors give. -/
theorem queriesAreIdempotent : Obligations.QueriesAreIdempotent := by
  refine fun i hi => ⟨fun s t h => ?_, fun s u t v hconf hdepth hunused hwr hrd ht hv => ?_⟩
  · obtain rfl := Host.Outcome.next.inj (h.symm.trans (exec_query hi (cur_lt_of_next h)))
    split <;> exact ⟨rfl, rfl, rfl, rfl, rfl, rfl, rfl, rfl, rfl, rfl⟩
  · have hcount : u.rawCount = s.rawCount := by simp only [State.rawCount, hunused, hwr, hrd]
    rw [exec_query_resVal hi hv, exec_query_resVal hi ht, hconf, hdepth, hcount]

/-! ## The answers as numbers -/

theorem boolU16_eq_one_iff {b : Bool} : boolU16 b = 1 ↔ b = true := by cases b <;> decide

theorem boolU16_eq_ofNat {b : Bool} {p : Prop} [Decidable p] (h : b = true ↔ p) :
    boolU16 b = BitVec.ofNat 16 (if p then 1 else 0) := by
  simp only [boolU16, h]
  split <;> rfl

theorem cnt_eq_ofNat (d c : U16) : cnt d c = BitVec.ofNat 16 (min c.toNat d.toNat) := by
  rw [← cnt_toNat, BitVec.ofNat_toNat, BitVec.setWidth_eq]

theorem remain_eq_ofNat (d c : U16) : remain d c = BitVec.ofNat 16 (d.toNat - min c.toNat d.toNat) := by
  rw [← remain_toNat, BitVec.ofNat_toNat, BitVec.setWidth_eq]

theorem remain_eq_zero_iff {d c : U16} : remain d c = 0 ↔ d ≤ c := by
  have h := remain_toNat d c
  bv_omega

/-- Settles O40: a passed query finishes with its function of the snapshot, which is the number the rule gives. -/
theorem queryResults : Obligations.QueryResults := by
  intro s c D answers
  have hanswers {i : Instr} (hi : i ∈ queries) {v : Nat} (hv : queryAnswer s.depth s.rawCount i = BitVec.ofNat 16 v) :
      answers i v := fun hp => hv ▸ exec_query_of_passes hi hp
  refine ⟨hanswers (by decide) (cnt_eq_ofNat _ _), hanswers (by decide) (boolU16_eq_ofNat ?_),
    hanswers (by decide) (boolU16_eq_ofNat fullp_iff), hanswers (by decide) (remain_eq_ofNat _ _),
    hanswers (by decide) (boolU16_eq_ofNat ovfp_eq_true_iff)⟩
  rw [beq_iff_eq, ← BitVec.toNat_inj]
  rfl

/-- Settles O42: the relations hold between the functions of one snapshot. -/
theorem queryRelations : Obligations.QueryRelations := by
  intro s hcur hc _
  have hexec {i : Instr} (hi : i ∈ queries := by decide) :
      exec i s = .next (s.finish (queryAnswer s.depth s.rawCount i) 0) := by rw [exec_query hi hcur, if_pos hc]
  refine ⟨_, _, _, _, _, hexec, hexec, hexec, hexec, hexec, ?_⟩
  simp only [finish_resVal hcur, queryAnswer, boolU16_eq_one_iff, beq_iff_eq, fullp_iff, ovfp_eq_true_iff]
  have hcnt := cnt_toNat s.depth s.rawCount
  have hremain := remain_toNat s.depth s.rawCount
  refine ⟨by omega, fun hempty => ?_, remain_eq_zero_iff.symm, fun hover => ⟨BitVec.le_of_lt hover, ?_⟩⟩
  · simp [hempty, cnt]
  · exact cnt_of_ovfp (ovfp_eq_true_iff.2 hover)

end Sys2Proof.Machine
end

section
/-! Proofs of the exception family (60_exceptions.md): the order of the checks, completion, preciseness, the capability, and the
host accesses that are refused. -/

namespace Sys2Proof.Machine

open Sys2Proof

/-! ## The prologue on the bits of the word (R304) -/

section
variable (i : Instr)

theorem opc_mem_iff_manual : i.opc ∈ [0x18, 0x19, 0x1A, 0x1B] ↔ i.manual = true := by
  cases i <;> simp [Instr.opc, Instr.manual]

theorem opc_eq_one_iff_isConfigure : i.opc = 0x01 ↔ i.isConfigure = true := by
  cases i <;> simp [Instr.opc, Instr.isConfigure]

theorem mem_iff_manual :
    i ∈ [.advanceWritePointer, .advanceReadPointer, .backwardWritePointer, .backwardReadPointer] ↔ i.manual = true := by
  cases i <;> simp [Instr.manual]

end

theorem cmBit_eq_one_iff {cm : CopyMode} : cmBit cm = 1 ↔ cm = .const := by cases cm <;> simp [cmBit]

/-- The bits of a legal word that the prologue's checks read. -/
theorem bits_of_decode {w : Word} {i : Instr} (h : decode w = .instr i) :
    w.toNat % 32 = i.opc ∧ w.toNat / 256 % 2 = cmBit i.copyMode := by
  obtain ⟨-, -, hmap⟩ := decode_eq_instr.1 h
  obtain ⟨hopc, hcm, -⟩ := spells_of_decodeOpc hmap
  rw [← fieldsOf_opc, ← fieldsOf_cm, ← hcm, cmBit_copyModeOf]
  exact ⟨hopc, rfl⟩

theorem misaligned_iff {s : State} : s.misaligned = true ↔ s.curPort.argAddr.toNat % 4 ≠ 0 := bne_iff_ne

theorem not_misaligned_iff {s : State} : s.misaligned = false ↔ s.curPort.argAddr.toNat % 4 = 0 := bne_eq_false_iff_eq

/-- Settles O8: the bits of a legal word are its command's fields, and each check refuses a command that the checks before it let
through. -/
theorem prologueChecksInOrder : Obligations.PrologueChecksInOrder := by
  refine fun w s hcur => ⟨fun why h => runWord_of_illegal h s, fun i h => ?_⟩
  obtain ⟨hopc, hcm⟩ := bits_of_decode h
  simp only [runWord_of_instr h, hopc, hcm, opc_mem_iff_manual, opc_eq_one_iff_isConfigure, cmBit_eq_one_iff, ne_eq,
    Bool.not_eq_true, and_true]
  refine ⟨exec_of_no_capability hcur, fun hcap => ⟨exec_of_not_configured hcur hcap, fun hconf => ⟨?_, ?_⟩⟩⟩
  · exact fun hconst hmis => exec_of_misaligned hcur hcap hconf hconst (misaligned_iff.2 hmis)
  · exact fun haligned => ⟨hcur, hcap, hconf, fun hconst => not_misaligned_iff.2 (haligned hconst)⟩

/-! ## Completion (R300, R301) -/

/-- The command finishes with code OK, having written no port. -/
def Finishes (s : State) (o : Host.Outcome State Fault Refusal) : Prop :=
  ∃ (u : State) (v : U16) (x : Word), u.ports = s.ports ∧ u.cur = s.cur ∧ o = .next (u.finish v x)

section
variable {s : State}

theorem Finishes.of_eq {o : Host.Outcome State Fault Refusal} {u : State} {v : U16} {x : Word} (h : o = .next (u.finish v x))
    (hports : u.ports = s.ports := by rfl) (hcur : u.cur = s.cur := by rfl) : Finishes s o :=
  ⟨u, v, x, hports, hcur, h⟩

theorem Reads.finishes {cm : CopyMode} {o : U16} {m : Nat} {rd : U16} {k : Int} {out : Host.Outcome State Fault Refusal}
    (h : Reads s cm o m rd k out) : Finishes s out := by
  obtain ⟨hnone, hsome⟩ := h
  by_cases hm : m = 0
  · exact .of_eq (hnone hm)
  · obtain ⟨b, -, e⟩ := hsome hm
    exact .of_eq e

theorem exec_configure_finishes {ow : Bool} (hp : Passes (.configure ow) s) : Finishes s (exec (.configure ow) s) := by
  rcases Nat.lt_or_ge Config.depthMax s.opA.toNat with hd | hd
  · exact .of_eq (exec_configure_rejected hp hd)
  · exact .of_eq (exec_configure_accepted hp hd)

theorem exec_write_finishes (hp : Passes .write s) (ha : Admitted .write s) (hslot : ¬ (s.depth = 0 ∧ s.ovw = true)) :
    Finishes s (exec .write s) := by
  by_cases hroom : s.rawCount < s.depth ∨ s.ovw = true
  · have h0 : s.depth ≠ 0 := fun h0 => hroom.elim (by simp [h0]) fun ho => hslot ⟨h0, ho⟩
    obtain ⟨b, -, e⟩ := exec_write_of_room hp h0 hroom ha
    exact .of_eq e
  · obtain ⟨hfull, ho⟩ := not_or.1 hroom
    exact .of_eq (exec_write_of_full hp (BitVec.not_lt.1 hfull) (by simpa using ho))

theorem exec_writeN_finishes {cm : CopyMode} (hp : Passes (.writeN cm) s) (ha : Admitted (.writeN cm) s) :
    Finishes s (exec (.writeN cm) s) := by
  by_cases hm : (wsel s s.opB.toNat).nEff = 0
  · exact .of_eq (exec_writeN_of_none hp rfl hm)
  · obtain ⟨b, -, e⟩ := exec_writeN_of_some hp rfl ha hm
    exact .of_eq e

theorem exec_getLinearReadInfo_finishes (hp : Passes .getLinearReadInfo s) : Finishes s (exec .getLinearReadInfo s) := by
  rw [exec_getLinearReadInfo_of_passes hp, checkCorrect_st]
  exact .of_eq rfl

theorem exec_getLinearWriteInfo_finishes (hp : Passes .getLinearWriteInfo s)
    (hn : ¬ (s.ovw = true ∧ 2 * s.depth.toNat < s.opB.toNat)) : Finishes s (exec .getLinearWriteInfo s) := by
  obtain ⟨hfree, -, hfull, hpartial⟩ := linearWriteResult s hp
  cases ho : s.ovw with
  | false => exact .of_eq (u := s) (hfree ho)
  | true =>
    have hle : s.opB.toNat ≤ 2 * s.depth.toNat := Nat.not_lt.1 fun hlt => hn ⟨ho, hlt⟩
    rcases Nat.lt_or_ge s.opB.toNat s.depth.toNat with hlt | hge
    · exact .of_eq (u := s) (hpartial ho hlt)
    · exact .of_eq (u := s) (hfull ho hge hle)

end

/-- Outside the two cases of R301's codes DEPTH_ZERO and CONTRACT a passed and admitted command finishes. -/
theorem exec_finishes {i : Instr} {s : State} (hp : Passes i s) (ha : Admitted i s)
    (hwrite : ¬ (i = .write ∧ s.depth = 0 ∧ s.ovw = true))
    (hlinear : ¬ (i = .getLinearWriteInfo ∧ s.ovw = true ∧ 2 * s.depth.toNat < s.opB.toNat)) : Finishes s (exec i s) := by
  cases i with
  | configure => exact exec_configure_finishes hp
  | write => exact exec_write_finishes hp ha fun h => hwrite ⟨rfl, h⟩
  | writeN => exact exec_writeN_finishes hp ha
  | read => exact (exec_read_reads hp ha).finishes
  | readN => exact (exec_readN_reads hp ha).finishes
  | peekAt => exact (exec_peekAt_reads hp ha).finishes
  | peekAtN => exact (exec_peekAtN_reads hp ha).finishes
  | getLinearReadInfo => exact exec_getLinearReadInfo_finishes hp
  | getLinearWriteInfo => exact exec_getLinearWriteInfo_finishes hp fun h => hlinear ⟨rfl, h⟩
  | _ =>
    unfold exec
    exact .of_eq (prologue_of_passes _ hp)

/-- Settles O7: WRITE at depth 0 finds no slot, GET_LINEAR_WRITE_INFO above 2·DEPTH breaks its contract, and every other case
finishes. -/
theorem passedCommandsComplete : Obligations.PassedCommandsComplete := by
  intro i s hp ha
  have ⟨hcur, _⟩ := hp
  split
  · next hwrite =>
    obtain ⟨rfl, h0, ho⟩ := hwrite
    exact ⟨_, exec_write_of_depth_zero hp h0 ho, complete_busy hcur _ _ _, complete_code hcur _ _ _⟩
  · next hwrite =>
    split
    · next hlinear =>
      obtain ⟨rfl, ho, hn⟩ := hlinear
      exact ⟨_, exec_getLinearWriteInfo_of_none hp (lwsel_of_excess ho hn), complete_busy hcur _ _ _,
        complete_code hcur _ _ _⟩
    · next hlinear =>
      obtain ⟨u, v, x, hports, hucur, e⟩ := exec_finishes hp ha hwrite hlinear
      have hu : u.recordGhost.cur < u.recordGhost.ports.length := by simpa [hports, hucur] using hcur
      exact ⟨_, e, complete_busy hu _ _ _, complete_code hu _ _ _⟩

/-! ## Preciseness (R303) -/

/-- Settles O9: a word that does not finish with OK is refused, and a refusal only completes. -/
theorem refusedCommandIsPrecise : Obligations.RefusedCommandIsPrecise := by
  intro w s t h hcode hcur
  rcases runWord_next_cases h with ⟨c, -, rfl⟩ | ⟨u, v, x, he, -, rfl⟩
  · rw [complete_code hcur]
    rfl
  · obtain ⟨hports, hucur, -⟩ := he.frame
    exact absurd (complete_code (s := u.recordGhost) (by simpa [hports, hucur] using hcur) .ok v x) hcode

/-! ## The capability (R306) -/

theorem runWord_params {w : Word} {s t : State} (h : runWord w s = .next t) : t.params = s.params := by
  rcases runWord_next_cases h with ⟨c, -, rfl⟩ | ⟨u, v, x, he, -, rfl⟩
  · rfl
  · obtain ⟨-, -, hparams, -⟩ := he.frame
    exact hparams

theorem step_params {s t : State} (h : step s = .next t) : t.params = s.params := by
  cases step_next h with
  | idle | masterWrite | reset => rfl
  | performed _ _ hrun => exact runWord_params (s := { s.takeEvent with cur := _ }) hrun
  | hostWrite addr width v =>
    obtain ⟨ports, resp, e, -⟩ := hostWrite_frame addr width v s.takeEvent
    rw [e]
    rfl
  | hostRead addr width =>
    obtain ⟨resp, e⟩ := hostRead_frame addr width s.takeEvent
    rw [e]
    rfl

/-- A command its port may issue does not complete with CAPABILITY: no later check and no rule gives that code. -/
theorem code_ne_capability {i : Instr} {s t : State} (hcap : i.manual = true → s.dmaCapable = true)
    (h : exec i s = .next t) : t.curPort.code ≠ .capability := by
  have hcur := cur_lt_of_next h
  rcases passes_or_refused hcur hcap with hp | ⟨c, hc, e⟩
  · obtain ⟨t', e, -, hcode⟩ := passedCommandsComplete i s hp (admitted_of_next hp h)
    obtain rfl := Host.Outcome.next.inj (h.symm.trans e)
    rw [hcode]
    split
    · decide
    · split <;> decide
  · obtain rfl := Host.Outcome.next.inj (h.symm.trans e)
    rw [State.raiseError, complete_code hcur]
    exact ne_of_mem_of_not_mem hc (by decide)

/-- Settles O11: no event and no command writes the parameters; the capability check is the only source of CAPABILITY. -/
theorem capabilityIsFixedAndGuards : Obligations.CapabilityIsFixedAndGuards := by
  refine ⟨fun s t => step_params, fun i s t h hcur => ?_⟩
  rw [mem_iff_manual]
  constructor
  · intro hcode
    by_contra hguard
    exact code_ne_capability (by simpa using hguard) h hcode
  · rintro ⟨hm, hd⟩
    obtain rfl := Host.Outcome.next.inj (h.symm.trans (exec_of_no_capability hcur hm hd))
    exact complete_code hcur _ _ _

/-! ## Refused host accesses (R314) -/

theorem hostTarget_refused {P : Params} {addr width : Nat} (hw : 1 ≤ width) (hlo : P.portBase ≤ addr)
    (hhi : addr < P.portBase + 0x20 * P.nports) (hbad : width ≠ 4 ∨ addr % 4 ≠ 0) :
    hostTarget P addr width = .refused := by
  unfold hostTarget windowBytes
  rw [if_neg (by omega), if_neg (by omega)]

/-- Settles O51: the access lands in the windows and is refused. -/
theorem otherHostAccessesAreRefused : Obligations.OtherHostAccessesAreRefused := by
  intro s addr width v rest hw hlo hhi hbad
  have htarget := hostTarget_refused hw hlo hhi hbad
  constructor
  · rw [step_of_agenda_cons rfl]
    simp only [handle, State.hostWrite, htarget]
  · rw [step_of_agenda_cons rfl]
    simp only [handle, State.hostRead, htarget]

end Sys2Proof.Machine
end

section
/-! Proofs of the reset family (70_reset_and_hazards.md R330 to R332). -/

namespace Sys2Proof.Machine

open Sys2Proof

/-- Settles O43: the step is the reset event, and every port is a reset one. -/
theorem resetPutsEveryRegister : Obligations.ResetPutsEveryRegister := by
  intro s rest ha
  refine ⟨_, step_of_agenda_cons ha, rfl, rfl, rfl, rfl, rfl, rfl, rfl, rfl, rfl, rfl, rfl, ?_, fun p hp => ?_, rfl, rfl, rfl⟩
  · exact List.length_map _
  · obtain ⟨_, -, rfl⟩ := List.mem_map.1 hp
    exact ⟨rfl, rfl, rfl, rfl, rfl, rfl, rfl, rfl⟩

theorem resetWith_inv {P : Params} (hP : P.wf) : Inv (State.resetWith P) := by
  have ⟨_, _, hports, _⟩ := hP
  refine ⟨hP, List.length_map _, hports, Nat.zero_le _, maxIndexOf_zero.symm, unusedOf_zero.symm, zero_lt_space P,
    fun p hp => ?_, .nil, by rintro _ ⟨⟩, fun _ => ⟨rfl, rfl, rfl, rfl, rfl, rfl⟩⟩
  obtain ⟨_, -, rfl⟩ := List.mem_map.1 hp
  exact zero_lt_space P

theorem resetWith_tracked (P : Params) : Tracked (State.resetWith P) := by
  refine fun _ => ⟨contract_of_cursors_zero rfl rfl rfl, ?_⟩
  simp [State.resetWith, State.rawCount, rawcnt]

/-- Settles O45: the reset block is empty, with the constants of depth 0. -/
theorem resetMeetsInvariant : Obligations.ResetMeetsInvariant :=
  fun P hP => ⟨resetWith_inv hP, resetWith_tracked P⟩

end Sys2Proof.Machine
end
